-- ==== Sys2Proof/Word.lean ====
section
/-!
DEFINITION. The word types of the link protocol engine (spec 00_scope.md R11) and the four-byte frame tag
(20_memory.md R48, R49: a tag is four separate bytes, never a number).
-/
namespace Sys2Proof

/-- `u8` of R11. -/
abbrev Byte := BitVec 8

/-- `u16` of R11: every word on the wire and every checksum. -/
abbrev Word := BitVec 16

/-- A frame tag: four bytes, `b0` the first character of its name and the first byte on the wire (R48). -/
structure Tag where
  b0 : Byte
  b1 : Byte
  b2 : Byte
  b3 : Byte
deriving DecidableEq, Repr

/-- The tag as it stands in frame bytes 0 to 3 (R48, R66). -/
def Tag.bytes (t : Tag) : List Byte := [t.b0, t.b1, t.b2, t.b3]

end Sys2Proof
end

