-- ==== Sys2Proof/Machine/Bytes.lean ====
section
/-!
DEFINITION. The byte and word helpers of 00_scope.md R12. Words are little-endian (20_memory.md R47).
-/
namespace Sys2Proof.Machine

/-- `LE16` of R12: the low byte, then the high byte. -/
def le16 (w : Word) : List Byte := [w.extractLsb' 0 8, w.extractLsb' 8 8]

/-- `rd16(s, i)` of R12. No rule reads past the end of a sequence; a byte that is not there counts as zero
(DESIGN CHOICE, assumption 19). -/
def rd16 (s : List Byte) (i : Nat) : Word :=
  (s.getD i 0).setWidth 16 ||| ((s.getD (i + 1) 0).setWidth 16 <<< 8)

/-- The exact sum of the bytes of `s`, each taken as unsigned (R12). -/
def byteSum (s : List Byte) : Nat := (s.map BitVec.toNat).sum

/-- `cksum16(s)` of R12: the byte sum mod 65536. -/
def cksum16 (s : List Byte) : Word := BitVec.ofNat 16 (byteSum s)

end Sys2Proof.Machine
end

