-- ==== Sys2Proof/Machine/Frame.lean ====
section
/-!
DEFINITION. The pure functions of the Frame Codec (40_frame_codec.md) and the four tags (30_encoding.md R67). The host
operations FC_* and the session use these same functions (R88).
-/
namespace Sys2Proof.Machine

/-- `STAT` (R67; the ASCII codes are PRESUMED, assumption 3). -/
def tagStat : Tag := ⟨0x53, 0x54, 0x41, 0x54⟩

/-- `READ` (R67). -/
def tagRead : Tag := ⟨0x52, 0x45, 0x41, 0x44⟩

/-- `WRIT` (R67). -/
def tagWrit : Tag := ⟨0x57, 0x52, 0x49, 0x54⟩

/-- `WSTA` (R67). -/
def tagWsta : Tag := ⟨0x57, 0x53, 0x54, 0x41⟩

/-- Frame bytes 0 to 7: the tag and the two words (R66). -/
def fcHeader (tag : Tag) (p1 p2 : Word) : List Byte := tag.bytes ++ le16 p1 ++ le16 p2

/-- `FC_ENCODE` (R86): the header and the checksum of its eight bytes. -/
def fcEncode (tag : Tag) (p1 p2 : Word) : List Byte :=
  fcHeader tag p1 p2 ++ le16 (cksum16 (fcHeader tag p1 p2))

/-- The validity predicate of R88. -/
def frameValid (f : List Byte) : Bool := rd16 f 8 == cksum16 (f.take 8)

/-- Frame bytes 0 to 3 as a tag. -/
def tagOf (f : List Byte) : Tag := ⟨f.getD 0 0, f.getD 1 0, f.getD 2 0, f.getD 3 0⟩

/-- The two results of `FC_DECODE` (R87). -/
inductive FrameResult where
  | ok (tag : Tag) (p1 p2 : Word)
  | checksumInvalid
deriving DecidableEq, Repr

/-- `FC_DECODE` (R87). The tag is checked against no list (92_eei_decisions.md D19). -/
def fcDecode (f : List Byte) : FrameResult :=
  if frameValid f then .ok (tagOf f) (rd16 f 4) (rd16 f 6) else .checksumInvalid

end Sys2Proof.Machine
end

