-- ==== Sys2Proof/Config.lean ====
section
/-!
DEFINITION. What is fixed for one link protocol engine (00_scope.md R9, R10) and the values the spec leaves free:
the OPEN parameter `NONE_SEL_BYTE` (92_eei_decisions.md D9) and the Channel's draws (R16, D4). The free values are
opaque: nothing can be proved of the value one takes.
-/
namespace Sys2Proof

/-- The disk geometry of a READ or WRIT (R10). -/
inductive Geometry where
  | eightInch
  | mini
deriving DecidableEq, Repr, Inhabited

/-- `TRACK_LEN` of R9, in bytes. -/
def Geometry.trackLen : Geometry → Nat
  | .eightInch => 137 * 32
  | .mini => 137 * 16

/-- `TRACK_COUNT` of R9. No rule checks a track number against it (92_eei_decisions.md D13). -/
def Geometry.trackCount : Geometry → Nat
  | .eightInch => 77
  | .mini => 35

/-- The label of a channel read, `T_FRAME` or `T_CHUNK` (R9, R17). -/
inductive WaitBound where
  | frame
  | chunk
deriving DecidableEq, Repr

/-- The milliseconds the label stands for (R9). No rule of the model depends on them (R160; assumption 20). -/
def WaitBound.milliseconds : WaitBound → Nat
  | .frame => 500
  | .chunk => 100

/-- What the Channel answers to one `ChWrite` (R14). -/
inductive WriteAnswer where
  | written (count : Nat)
  | ioError
deriving DecidableEq, Repr, Inhabited

/-- What the Channel answers to one `ChRead` (R14). No bytes means that the wait bound expired (R17). -/
inductive ReadAnswer where
  | bytes (received : List Byte)
  | ioError
deriving DecidableEq, Repr, Inhabited

namespace Config

/-- `FRAME_LEN` of R9. -/
abbrev frameLen : Nat := 10

/-- `MAX_DRIVE` of R9. -/
abbrev maxDrive : Nat := 4

/-- `TRACK_BUF_CAP` of R9: the longest track and its two checksum bytes. -/
abbrev trackBufCap : Nat := 4386

/-- `NONE_SEL_BYTE`, the OPEN parameter of R9: the low byte of a STAT request while no drive is selected. A free
value (assumption 2). -/
opaque noneSelByte : Byte

/-- The Channel's answer to the `n`-th `ChWrite` for which no answer is listed in the state: a free draw (R16). -/
opaque writeDraw (n : Nat) : WriteAnswer

/-- The Channel's answer to the `n`-th `ChRead` for which no answer is listed in the state: a free draw (R16). -/
opaque readDraw (n : Nat) : ReadAnswer

end Config
end Sys2Proof
end

