-- ==== Sys2Proof/Machine/Operands.lean ====
section
/-!
DEFINITION. The operand forms: assembling the request words from the Drive State and the arguments (30_encoding.md R69,
R70), taking them apart again, and the type checks of the host operations' arguments (R77).
-/
namespace Sys2Proof.Machine

/-- `selByte` of R69. For `NONE` it is the OPEN parameter (assumption 2). -/
def selByte : Option (Fin 4) → Byte
  | some d => BitVec.ofNat 8 d.val
  | none => Config.noneSelByte

/-- One head-load bit as a `u16`. -/
def headBit (v : Bool) : Word := if v then 1 else 0

/-- `DS_HEADMAP` of R119: bit `d` is `HEAD[d]`, bits 15 to 4 are zero. -/
def headmap (head : Vector Bool 4) : Word :=
  headBit head[0] ||| (headBit head[1] <<< 1) ||| (headBit head[2] <<< 2) ||| (headBit head[3] <<< 3)

/-- `param1` of a STAT request as the accept step builds it (R101; assumption 15). -/
def statParam1 (sel : Option (Fin 4)) (head : Vector Bool 4) : Word :=
  (selByte sel).setWidth 16 ||| (headmap head <<< 8)

/-- `param1` of a STAT request from its fields (R69); bits 15 to 12 are zero. -/
def packStat (sel : Byte) (heads : BitVec 4) : Word :=
  sel.setWidth 16 ||| (heads.setWidth 16 <<< 8)

/-- `param1` of a READ or WRIT request from its fields (R70). -/
def packTrack (track : BitVec 12) (drive : BitVec 4) : Word :=
  track.setWidth 16 ||| (drive.setWidth 16 <<< 12)

/-- The selected drive as the drive nibble of a request (R70). -/
def driveNibble (d : Fin 4) : BitVec 4 := BitVec.ofNat 4 d.val

/-- `param2` of a READ or WRIT request: the track length (R70). -/
def lenWord (g : Geometry) : Word := BitVec.ofNat 16 g.trackLen

/-- The coding of the geometry argument (R76; assumption 23). -/
def geometryCode : Geometry → Byte
  | .eightInch => 0
  | .mini => 1

/-- The geometry of a code; every other code is refused (R77). -/
def geometryOf (code : Byte) : Option Geometry :=
  if code = 0 then some .eightInch else if code = 1 then some .mini else none

/-- A track number is a `u12`; one of 4096 or more is refused (R77). -/
def trackArg (track : Nat) : Option (BitVec 12) :=
  if track < 4096 then some (BitVec.ofNat 12 track) else none

/-- A drive index is 0 to 3; one of 4 or more is refused (R77). -/
def driveArg (idx : Nat) : Option (Fin 4) :=
  if h : idx < 4 then some ⟨idx, h⟩ else none

/-- The argument of `DS_SELECT`: `NONE`, or a drive index (R76, R77). -/
def selectArg : Option Nat → Option (Option (Fin 4))
  | none => some none
  | some idx => (driveArg idx).map some

/-- A tag argument is four bytes; another length is refused (R77). -/
def tagArg : List Byte → Option Tag
  | [a, b, c, d] => some ⟨a, b, c, d⟩
  | _ => none

end Sys2Proof.Machine
end

