-- ==== Sys2Proof/Syntax.lean ====
section
/-!
DEFINITION. The instructions: one constructor for each row of spec/opcode_table.json. Six are wire frames
(30_encoding.md R66 to R71), eleven are host operations (R76).
-/
namespace Sys2Proof

/-- The instructions of the link protocol engine. A host operation carries its arguments as the Host presents them, so
that one outside its type (R77) can be written down and is refused. -/
inductive Instr where
  /-- The STAT request frame: `sel` is `param1[7:0]`, `heads` is `param1[11:8]` (R69). -/
  | reqStat (sel : Byte) (heads : BitVec 4)
  /-- The READ request frame: `param1[11:0]`, `param1[15:12]` and `param2` (R70). -/
  | reqRead (track : BitVec 12) (drive : BitVec 4) (len : Word)
  /-- The WRIT request frame: `param1[11:0]`, `param1[15:12]` and `param2` (R70). -/
  | reqWrit (track : BitVec 12) (drive : BitVec 4) (len : Word)
  /-- A response frame tagged `STAT` (R71). -/
  | rspStat (rcode rdata : Word)
  /-- A response frame tagged `WRIT` (R71). -/
  | rspWrit (rcode rdata : Word)
  /-- A response frame tagged `WSTA` (R71). -/
  | rspWsta (rcode rdata : Word)
  /-- `EX_STAT` (R101). -/
  | exStat
  /-- `EX_READ` (R102). -/
  | exRead (track : Nat) (geometry : Geometry)
  /-- `EX_WRIT` (R103). -/
  | exWrit (track : Nat) (geometry : Geometry) (data : List Byte)
  /-- `DS_SELECT` (R117); `none` is the argument `NONE`. -/
  | dsSelect (idx : Option Nat)
  /-- `DS_HEAD` (R118). -/
  | dsHead (idx : Nat) (v : Bool)
  /-- `DS_HEADMAP` (R119). -/
  | dsHeadmap
  /-- `FC_ENCODE` (R86). -/
  | fcEncode (tag : List Byte) (p1 p2 : Word)
  /-- `FC_DECODE` (R87). -/
  | fcDecode (f : List Byte)
  /-- `TC_CHECKSUM` (R93). -/
  | tcChecksum (payload : List Byte)
  /-- `TC_APPEND` (R94). -/
  | tcAppend (payload : List Byte)
  /-- `TC_VALIDATE` (R95). -/
  | tcValidate (x : List Byte) (expectedLength : Nat)
deriving DecidableEq, Repr

/-- Where an instruction stands when the engine takes it: a message of the Host, the command frame in `CMD`, or the
received frame in `FB`. The direction of a frame is no bit of it (R74). -/
inductive Port where
  | host
  | request
  | response
deriving DecidableEq, Repr

/-- The port of each instruction (R79: the direction of each wire row, and the host-op rows). -/
def Instr.port : Instr → Port
  | .reqStat _ _ => .request
  | .reqRead _ _ _ => .request
  | .reqWrit _ _ _ => .request
  | .rspStat _ _ => .response
  | .rspWrit _ _ => .response
  | .rspWsta _ _ => .response
  | .exStat => .host
  | .exRead _ _ => .host
  | .exWrit _ _ _ => .host
  | .dsSelect _ => .host
  | .dsHead _ _ => .host
  | .dsHeadmap => .host
  | .fcEncode _ _ _ => .host
  | .fcDecode _ => .host
  | .tcChecksum _ => .host
  | .tcAppend _ => .host
  | .tcValidate _ _ => .host

end Sys2Proof
end

