-- ==== Sys2Proof/WellFormed.lean ====
section
/-!
DEFINITION. Which instructions are well formed: the argument types of the host operations (30_encoding.md R76, R77) and
the fields a request frame can hold (R70).
-/
namespace Sys2Proof

/-- `param2` of a READ or WRIT request is a track length: `0x1120` or `0x0890` (R70). -/
def isTrackLen (len : Word) : Bool :=
  len == BitVec.ofNat 16 Geometry.eightInch.trackLen || len == BitVec.ofNat 16 Geometry.mini.trackLen

/-- The argument types of R76, the refusals of R77, and the field ranges of R70. -/
def Instr.wf : Instr → Bool
  | .reqStat _ _ => true
  | .reqRead _ drive len => decide (drive.toNat < Config.maxDrive) && isTrackLen len
  | .reqWrit _ drive len => decide (drive.toNat < Config.maxDrive) && isTrackLen len
  | .rspStat _ _ => true
  | .rspWrit _ _ => true
  | .rspWsta _ _ => true
  | .exStat => true
  | .exRead track _ => decide (track < 4096)
  | .exWrit track geometry data => decide (track < 4096) && decide (data.length = geometry.trackLen)
  | .dsSelect none => true
  | .dsSelect (some idx) => decide (idx < Config.maxDrive)
  | .dsHead idx _ => decide (idx < Config.maxDrive)
  | .dsHeadmap => true
  | .fcEncode tag _ _ => decide (tag.length = 4)
  | .fcDecode f => decide (f.length = Config.frameLen)
  | .tcChecksum _ => true
  | .tcAppend _ => true
  | .tcValidate _ _ => true

end Sys2Proof
end

