-- ==== Sys2Proof/Decode.lean ====
section
/-!
DEFINITION. Decoding, total on any bytes, and encoding. A wire frame is read as 30_encoding.md R66 to R71 and R79 lay it
out. A host operation is a message of the Host: its number of R76, then its operands in the layout of assumption 4.
-/
namespace Sys2Proof
open Machine

/-- Why bytes are no instruction. -/
inductive DecodeError where
  /-- An empty message. -/
  | empty
  /-- No host operation has this number (R76). -/
  | unknownOp (op : Byte)
  /-- Operand bytes are missing or left over. -/
  | badLength
  /-- A geometry code other than 0 or 1 (R77). -/
  | badGeometry (code : Byte)
  /-- A bit or choice byte other than 0 or 1. -/
  | badChoice (code : Byte)
  /-- The frame is not valid (R88). -/
  | checksumInvalid
  /-- The frame's tag is of no row that can stand at this port (R68). -/
  | unknownTag (tag : Tag)
  /-- A bit that R69 fixes at zero is set. -/
  | reservedBits
deriving DecidableEq, Repr

/-- A natural number in groups of seven bits, the least significant first; a byte of 128 or more says that another
follows (assumption 4). -/
def natBytesFuel : Nat → Nat → List Byte
  | 0, n => [BitVec.ofNat 8 (n % 128)]
  | fuel + 1, n =>
    if n < 128 then [BitVec.ofNat 8 n] else BitVec.ofNat 8 (128 + n % 128) :: natBytesFuel fuel (n / 128)

/-- `natBytesFuel` with enough fuel for `n`. -/
def natBytes (n : Nat) : List Byte := natBytesFuel n n

/-- Reads what `natBytes` writes; answers the number and the bytes after it. -/
def natOfBytes : List Byte → Option (Nat × List Byte)
  | [] => none
  | b :: bs =>
    if b.toNat < 128 then some (b.toNat, bs)
    else (natOfBytes bs).map fun r => (b.toNat - 128 + 128 * r.1, r.2)

/-- A byte that stands for one bit. -/
def bitOf (code : Byte) : Option Bool :=
  if code = 0 then some false else if code = 1 then some true else none

/-- `EX_READ`: the track number little-endian, then the geometry. -/
def decodeExRead : List Byte → Except DecodeError Instr
  | [t0, t1, g] =>
    match geometryOf g with
    | some geometry => .ok (.exRead (rd16 [t0, t1] 0).toNat geometry)
    | none => .error (.badGeometry g)
  | _ => .error .badLength

/-- `EX_WRIT`: the track number, the geometry, then the data, which may have any length (R77 is checked at the accept). -/
def decodeExWrit : List Byte → Except DecodeError Instr
  | t0 :: t1 :: g :: data =>
    match geometryOf g with
    | some geometry => .ok (.exWrit (rd16 [t0, t1] 0).toNat geometry data)
    | none => .error (.badGeometry g)
  | _ => .error .badLength

/-- `DS_SELECT`: 0 and a drive index, or 1 for `NONE`, which is no numeral (10_state.md R24). -/
def decodeDsSelect : List Byte → Except DecodeError Instr
  | [k, idx] => if k = 0 then .ok (.dsSelect (some idx.toNat)) else .error (.badChoice k)
  | [k] => if k = 1 then .ok (.dsSelect none) else .error (.badChoice k)
  | _ => .error .badLength

/-- `DS_HEAD`: the drive index, then the bit. -/
def decodeDsHead : List Byte → Except DecodeError Instr
  | [idx, v] =>
    match bitOf v with
    | some bit => .ok (.dsHead idx.toNat bit)
    | none => .error (.badChoice v)
  | _ => .error .badLength

/-- `FC_ENCODE`: the two words, then the tag, which may have any length (R77 is checked by the meaning). -/
def decodeFcEncode : List Byte → Except DecodeError Instr
  | a :: b :: c :: d :: tag => .ok (.fcEncode tag (rd16 [a, b] 0) (rd16 [c, d] 0))
  | _ => .error .badLength

/-- `TC_VALIDATE`: the expected length, then the sequence. -/
def decodeTcValidate (args : List Byte) : Except DecodeError Instr :=
  match natOfBytes args with
  | some (n, x) => .ok (.tcValidate x n)
  | none => .error .badLength

/-- An operation without operands. -/
def decodeNoArgs (i : Instr) (args : List Byte) : Except DecodeError Instr :=
  if args.isEmpty then .ok i else .error .badLength

/-- A host message: the operation number of R76, then the operands. -/
def decodeHost : List Byte → Except DecodeError Instr
  | [] => .error .empty
  | op :: args =>
    if op = 0x01 then decodeNoArgs .exStat args
    else if op = 0x02 then decodeExRead args
    else if op = 0x03 then decodeExWrit args
    else if op = 0x10 then decodeDsSelect args
    else if op = 0x11 then decodeDsHead args
    else if op = 0x12 then decodeNoArgs .dsHeadmap args
    else if op = 0x20 then decodeFcEncode args
    else if op = 0x21 then .ok (.fcDecode args)
    else if op = 0x30 then .ok (.tcChecksum args)
    else if op = 0x31 then .ok (.tcAppend args)
    else if op = 0x32 then decodeTcValidate args
    else .error (.unknownOp op)

/-- The request row of a tag and two words (R68 to R70). -/
def requestOf (tag : Tag) (p1 p2 : Word) : Except DecodeError Instr :=
  if tag = tagStat then
    if p1.extractLsb' 12 4 = 0 ∧ p2 = 0 then .ok (.reqStat (p1.extractLsb' 0 8) (p1.extractLsb' 8 4))
    else .error .reservedBits
  else if tag = tagRead then .ok (.reqRead (p1.extractLsb' 0 12) (p1.extractLsb' 12 4) p2)
  else if tag = tagWrit then .ok (.reqWrit (p1.extractLsb' 0 12) (p1.extractLsb' 12 4) p2)
  else .error (.unknownTag tag)

/-- The response row of a tag and two words, `rcode` and `rdata` (R68, R71). -/
def responseOf (tag : Tag) (rcode rdata : Word) : Except DecodeError Instr :=
  if tag = tagStat then .ok (.rspStat rcode rdata)
  else if tag = tagWrit then .ok (.rspWrit rcode rdata)
  else if tag = tagWsta then .ok (.rspWsta rcode rdata)
  else .error (.unknownTag tag)

/-- A frame at a port: first the checksum, then the tag against the port's rows (R79). -/
def decodeFrame (row : Tag → Word → Word → Except DecodeError Instr) (f : List Byte) : Except DecodeError Instr :=
  if f.length = Config.frameLen then
    match fcDecode f with
    | .ok tag p1 p2 => row tag p1 p2
    | .checksumInvalid => .error .checksumInvalid
  else .error .badLength

/-- The decoder: the instruction that bytes standing at a port are, or why they are none. -/
def decode (port : Port) (bytes : List Byte) : Except DecodeError Instr :=
  match port with
  | .host => decodeHost bytes
  | .request => decodeFrame requestOf bytes
  | .response => decodeFrame responseOf bytes

/-- The operand bytes of `DS_SELECT`. -/
def selectBytes : Option Nat → List Byte
  | none => [1]
  | some idx => [0, BitVec.ofNat 8 idx]

/-- The encoder: the bytes of an instruction at its own port (R66 to R71, R76; assumption 4 for the host messages). -/
def encode : Instr → List Byte
  | .reqStat sel heads => fcEncode tagStat (packStat sel heads) 0
  | .reqRead track drive len => fcEncode tagRead (packTrack track drive) len
  | .reqWrit track drive len => fcEncode tagWrit (packTrack track drive) len
  | .rspStat rcode rdata => fcEncode tagStat rcode rdata
  | .rspWrit rcode rdata => fcEncode tagWrit rcode rdata
  | .rspWsta rcode rdata => fcEncode tagWsta rcode rdata
  | .exStat => [0x01]
  | .exRead track geometry => 0x02 :: (le16 (BitVec.ofNat 16 track) ++ [geometryCode geometry])
  | .exWrit track geometry data => 0x03 :: (le16 (BitVec.ofNat 16 track) ++ geometryCode geometry :: data)
  | .dsSelect idx => 0x10 :: selectBytes idx
  | .dsHead idx v => [0x11, BitVec.ofNat 8 idx, if v then 1 else 0]
  | .dsHeadmap => [0x12]
  | .fcEncode tag p1 p2 => 0x20 :: (le16 p1 ++ le16 p2 ++ tag)
  | .fcDecode f => 0x21 :: f
  | .tcChecksum payload => 0x30 :: payload
  | .tcAppend payload => 0x31 :: payload
  | .tcValidate x expectedLength => 0x32 :: (natBytes expectedLength ++ x)

/-- `count` bytes of `w`, the least significant first. -/
def lowBytes : Nat → Nat → List Byte
  | 0, _ => []
  | count + 1, w => BitVec.ofNat 8 (w % 256) :: lowBytes count (w / 256)

/-- The tag whose `tag32` is `w`: the first tag byte is the most significant (R79). -/
def tagOfWord (w : Nat) : Tag :=
  ⟨BitVec.ofNat 8 (w / 2 ^ 24), BitVec.ofNat 8 (w / 2 ^ 16), BitVec.ofNat 8 (w / 2 ^ 8), BitVec.ofNat 8 w⟩

/-- The port at which a table word with this tag is taken, if the tag is one of R67. The table gives REQ_STAT and
RSP_STAT the same 32 bits, and REQ_WRIT and RSP_WRIT too: such a word is taken as the received frame (assumption 5). -/
def portOfTag (tag : Tag) : Option Port :=
  if tag = tagStat then some .response
  else if tag = tagWrit then some .response
  else if tag = tagWsta then some .response
  else if tag = tagRead then some .request
  else none

/-- How long a host message is at least whose bytes so far are `msg`, the rest being zero (assumption 4). -/
def hostMessageLen (msg : List Byte) : Nat :=
  let op := msg.getD 0 0
  if op = 0x02 then 4
  else if op = 0x03 then 4 + (if msg.getD 3 0 = 1 then Geometry.mini.trackLen else Geometry.eightInch.trackLen)
  else if op = 0x10 then (if msg.getD 1 0 = 1 then 2 else 3)
  else if op = 0x11 then 3
  else if op = 0x20 then 9
  else if op = 0x21 then 11
  else if op = 0x32 then 2
  else 1

/-- A host message with zero bytes appended up to the operation's length. -/
def padHost (msg : List Byte) : List Byte := msg ++ List.replicate (hostMessageLen msg - msg.length) 0

/-- The frame of a table word: `tag32` in bits 31 to 0, then the two words, then the checksum where the table gives it
bits; where it does not, the checksum that R66 defines (assumption 5). -/
def frameOfWord (nbits w : Nat) : List Byte :=
  let tag := tagOfWord w
  let p1 := BitVec.ofNat 16 (w / 2 ^ 32)
  let p2 := BitVec.ofNat 16 (w / 2 ^ 48)
  if nbits ≤ 64 then fcEncode tag p1 p2 else fcHeader tag p1 p2 ++ le16 (BitVec.ofNat 16 (w / 2 ^ 64))

/-- The port and the bytes of an instruction given as a table word. -/
def tableBytes (nbits w : Nat) : Port × List Byte :=
  match if 32 ≤ nbits then portOfTag (tagOfWord w) else none with
  | some port => (port, frameOfWord nbits w)
  | none => (.host, padHost (lowBytes (nbits / 8) w))

/-- The instruction the decoder reads from a word numbered as spec/opcode_table.json numbers it. -/
def decodeTableWord (nbits w : Nat) : Option Instr :=
  match decode (tableBytes nbits w).1 (tableBytes nbits w).2 with
  | .ok i => some i
  | .error _ => none

end Sys2Proof
end

