-- ==== Sys2Proof/Machine/Track.lean ====
section
/-!
DEFINITION. The pure functions of the Track Transfer Codec (41_track_codec.md), defined for byte sequences of every
length (92_eei_decisions.md D29).
-/
namespace Sys2Proof.Machine

/-- `TC_CHECKSUM` (R93): the bytes added one after another to a 16-bit register that wraps. -/
def tcChecksum (payload : List Byte) : Word :=
  payload.foldl (fun acc b => acc + b.setWidth 16) 0

/-- `TC_APPEND` (R94). -/
def tcAppend (payload : List Byte) : List Byte := payload ++ le16 (cksum16 payload)

/-- The three results of `TC_VALIDATE` (R95). -/
inductive TrackResult where
  | ok (payload : List Byte)
  | checksumInvalid
  | lengthMismatch
deriving DecidableEq, Repr

/-- `TC_VALIDATE` (R95). The length comes first; the checksum is not consulted when it is wrong (R97). -/
def tcValidate (x : List Byte) (expectedLength : Nat) : TrackResult :=
  if x.length ≠ expectedLength + 2 then .lengthMismatch
  else if rd16 x expectedLength ≠ cksum16 (x.take expectedLength) then .checksumInvalid
  else .ok (x.take expectedLength)

end Sys2Proof.Machine
end

