-- ==== Sys2Proof/Machine/State.lean ====
section
/-!
DEFINITION. The state of the machine as plain data: the registers of the link protocol engine (10_state.md R20), and
beside them the Host's and the Channel's sides of it, which R33 and R35 keep out of the engine.
-/
namespace Sys2Proof.Machine

/-- The `phase` register (R25). -/
inductive Phase where
  | idle
  | sendCmd
  | awaitFrame
  | awaitPayload
  | readyToSend
  | awaitWsta
  | done
deriving DecidableEq, Repr

/-- The `KIND` register (R26). -/
inductive Kind where
  | stat
  | read
  | writ
deriving DecidableEq, Repr

/-- Which of a WRIT's two frames refused it (60_exceptions.md R126). -/
inductive RefusalPhase where
  | ack
  | final
deriving DecidableEq, Repr

/-- The outcomes of an exchange with their payloads, and the reset value of `OUT` (R126; assumption 16). -/
inductive ExOutcome where
  | statOk (mount : Word)
  | readOk (count : Nat) (data : List Byte)
  | writOk
  | invalidDrive
  | ioError
  | timeout
  | tagMismatch (expected received : Tag)
  | remoteRefusal (phase : RefusalPhase) (code : Word)
  | readChecksumInvalid (count : Nat)
  | partialData (count : Nat)
  | noOutcome
deriving DecidableEq, Repr

/-- What a host operation returns to the Host (30_encoding.md R76). -/
inductive HostResult where
  /-- `DS_SELECT` and `DS_HEAD` return nothing but that they are done. -/
  | done
  | word (w : Word)
  | bytes (s : List Byte)
  | frame (r : FrameResult)
  | track (r : TrackResult)
  | outcome (o : ExOutcome)
deriving DecidableEq, Repr

/-- One channel transaction: the call and its answer (00_scope.md R14). -/
inductive Transaction where
  | write (offered : List Byte) (answer : WriteAnswer)
  | read (max : Nat) (bound : WaitBound) (answer : ReadAnswer)
deriving DecidableEq, Repr

/-- The Channel's side (R33). It is the environment, not a register of the engine. -/
structure Channel where
  /-- The answers already fixed for the coming `ChRead`s, oldest first: unconsumed inbound bytes, in arrival order. -/
  inbound : List ReadAnswer
  /-- The answers already fixed for the coming `ChWrite`s, oldest first. -/
  outbound : List WriteAnswer
  /-- How many answers have been drawn beyond the fixed ones (the model's own counter, assumption 6). -/
  draws : Nat
  /-- Every transaction so far, oldest first. -/
  log : List Transaction
deriving DecidableEq, Repr

/-- An internal buffer of `n` bytes (20_memory.md R46). -/
abbrev Buffer (n : Nat) := Vector Byte n

/-- The state. The first eleven fields are the registers of R20; `pending` and `ret` are the Host's side, `chan` the
Channel's. -/
structure State where
  /-- `HEAD[0..3]` (R21). -/
  head : Vector Bool 4
  /-- `SEL`; `none` is the value `NONE` (R24). -/
  sel : Option (Fin 4)
  /-- `phase` (R25). -/
  phase : Phase
  /-- `KIND` (R26). -/
  kind : Kind
  /-- `CMD[0..9]` (R27). -/
  cmd : Buffer 10
  /-- `FB[0..9]` (R28). -/
  fb : Buffer 10
  /-- `FN` (R28). -/
  fn : Nat
  /-- `TB[0..4385]` (R29). -/
  tb : Buffer 4386
  /-- `TN` (R29). -/
  tn : Nat
  /-- `L` (R30), held as the geometry whose track length it is (assumption 8); `State.L` is the number. -/
  len : Geometry
  /-- `OUT` (R31). -/
  out : ExOutcome
  /-- The operations the Host will present, oldest first, each one message (assumption 4). -/
  pending : List (List Byte)
  /-- The result last returned to the Host (assumption 9). -/
  ret : Option HostResult
  /-- The Channel (assumptions 6 and 9). -/
  chan : Channel
deriving DecidableEq, Repr

/-- `L` as a number: 4384 or 2192 (R30). -/
def State.L (s : State) : Nat := s.len.trackLen

/-- The reasons the machine stops with a fault. No rule gives the engine one; both mark a case that the rules call
impossible, and no state of a run from reset reaches either. -/
inductive Fault where
  /-- Raised by the arbiter when a valid frame is complete in `AWAIT_FRAME` with `KIND = READ`, for which R106 has no
  case. Safe: the machine stops where the spec says nothing. -/
  | noArbiterRule
  /-- Raised by the payload check where R112 says `LengthMismatch` is unreachable. Safe: it is never raised. -/
  | payloadLength
deriving DecidableEq, Repr

/-- Which argument of a host operation is outside its type (R77). -/
inductive ArgError where
  | trackNumber
  | dataLength
  | driveIndex
  | tagLength
  | frameLength
deriving DecidableEq, Repr

/-- The reasons an instruction has no meaning where it stands. -/
inductive Refusal where
  /-- Raised by an arm of `exec` that is not written yet. Safe. -/
  | notModelled (mnemonic : String)
  /-- Raised by a host operation whose argument is outside its type: R77 refuses it. Safe. -/
  | illTyped (what : ArgError)
  /-- Raised by the fetch when the Host's message is no operation: R15 refuses it. Safe. -/
  | undecodable (reason : DecodeError)
  /-- Raised by a host operation outside `IDLE`: the Host has no step there (R100). Safe. -/
  | hostBlocked
  /-- Raised by a request frame outside `SEND_CMD`: no other phase sends one (R46, R104). Safe. -/
  | notSending
  /-- Raised by a response frame outside the frame waits: it has no meaning there (R68). Safe. -/
  | notAwaitingFrame
deriving DecidableEq, Repr

/-- The outcome of one step. -/
abbrev StepResult := Host.Outcome State Fault Refusal

/-- The Channel before any transaction: no answer fixed, none drawn. -/
def Channel.reset : Channel := { inbound := [], outbound := [], draws := 0, log := [] }

/-- The machine right after reset (70_reset_and_hazards.md R150, assumption 13). `KIND`, `CMD`, `FB`, `FN`, `TB`, `TN` and
`L` are unspecified there; the values here are the model's (assumption 1). -/
def State.reset : State where
  head := Vector.replicate 4 false
  sel := none
  phase := .idle
  kind := .stat
  cmd := Vector.replicate 10 0
  fb := Vector.replicate 10 0
  fn := 0
  tb := Vector.replicate 4386 0
  tn := 0
  len := .eightInch
  out := .noOutcome
  pending := []
  ret := none
  chan := Channel.reset

end Sys2Proof.Machine
end

