-- ==== Sys2Proof/Machine/Flags.lean ====
section
/-!
DEFINITION. The engine has no flags register and no condition codes (10_state.md R32). What is flag-like is computed
here: the classes of response codes (30_encoding.md R73) and of outcomes (60_exceptions.md R126), and the arbiter's
verdicts on a valid frame (42_session.md R107 to R109).
-/
namespace Sys2Proof.Machine

/-- The names of R73. -/
inductive ResponseClass where
  | ok
  | notReady
  | checksumError
  | writeError
  | unknown
deriving DecidableEq, Repr

/-- `classify(c)` of R73. -/
def classify (c : Word) : ResponseClass :=
  if c = 0x0000 then .ok
  else if c = 0x0001 then .notReady
  else if c = 0x0002 then .checksumError
  else if c = 0x0003 then .writeError
  else .unknown

/-- The numeric code of an outcome (R126; 92_eei_decisions.md D23). -/
def ExOutcome.code : ExOutcome → Byte
  | .statOk _ => 0x00
  | .readOk _ _ => 0x01
  | .writOk => 0x02
  | .invalidDrive => 0x10
  | .ioError => 0x11
  | .timeout => 0x12
  | .tagMismatch _ _ => 0x13
  | .remoteRefusal _ _ => 0x14
  | .readChecksumInvalid _ => 0x15
  | .partialData _ => 0x16
  | .noOutcome => 0xFF

/-- The class column of R126: the source's `Success` (R129). -/
def ExOutcome.isSuccess : ExOutcome → Bool
  | .statOk _ => true
  | .readOk _ _ => true
  | .writOk => true
  | .invalidDrive => false
  | .ioError => false
  | .timeout => false
  | .tagMismatch _ _ => false
  | .remoteRefusal _ _ => false
  | .readChecksumInvalid _ => false
  | .partialData _ => false
  | .noOutcome => false

/-- `classify(code)`, which a `RemoteRefusal` carries beside its code (R126). -/
def ExOutcome.refusalClass : ExOutcome → Option ResponseClass
  | .remoteRefusal _ code => some (classify code)
  | .statOk _ => none
  | .readOk _ _ => none
  | .writOk => none
  | .invalidDrive => none
  | .ioError => none
  | .timeout => none
  | .tagMismatch _ _ => none
  | .readChecksumInvalid _ => none
  | .partialData _ => none
  | .noOutcome => none

/-- The outcome of a valid frame in the STAT wait (R107). `rcode` is not read. -/
def statVerdict (tag : Tag) (rdata : Word) : ExOutcome :=
  if tag ≠ tagStat then .tagMismatch tagStat tag else .statOk rdata

/-- The outcome of a valid frame in the WRIT acknowledgement wait, or none where the exchange goes on (R108). -/
def ackVerdict (tag : Tag) (rcode : Word) : Option ExOutcome :=
  if tag ≠ tagWrit then some (.tagMismatch tagWrit tag)
  else if rcode ≠ 0x0000 then some (.remoteRefusal .ack rcode)
  else none

/-- The outcome of a valid frame in the WSTA wait (R109). -/
def finalVerdict (tag : Tag) (rcode : Word) : ExOutcome :=
  if tag ≠ tagWsta then .tagMismatch tagWsta tag
  else if rcode = 0x0000 then .writOk
  else .remoteRefusal .final rcode

/-- The outcome of a complete READ payload of `count` bytes, or none where R112 says the case is unreachable. -/
def payloadVerdict (count : Nat) : TrackResult → Option ExOutcome
  | .ok p => some (.readOk count p)
  | .checksumInvalid => some (.readChecksumInvalid count)
  | .lengthMismatch => none

end Sys2Proof.Machine
end

