-- ==== Sys2Proof/Machine/Ops.lean ====
section
/-!
DEFINITION. The named operations: on the internal buffers (00_scope.md R13), on the Channel (R14, R16), and on the
registers. Ending an exchange is `State.finish` (60_exceptions.md R132), returning from it `State.returnOutcome`
(42_session.md R116); they are this engine's exception entry and exception return.
-/
namespace Sys2Proof.Machine

/-! ## Buffers -/

/-- `MemRead(BUF, i, n)` (R13). -/
def memRead {size : Nat} (b : Buffer size) (i n : Nat) : List Byte := (b.toList.drop i).take n

/-- `MemWrite(BUF, i, len(v), v)` (R13). No rule writes past the end of a buffer; such bytes would be dropped
(DESIGN CHOICE, assumption 19). -/
def memWrite {size : Nat} (b : Buffer size) (i : Nat) (v : List Byte) : Buffer size :=
  ⟨((b.toList.take i ++ v ++ b.toList.drop (i + v.length)).take size).toArray, by
    simp only [List.size_toArray, List.length_take, List.length_append, List.length_drop, Vector.length_toList]
    omega⟩

/-! ## The Channel -/

/-- The next answer to a `ChWrite`: the oldest one fixed, or a draw. -/
def Channel.nextWrite (c : Channel) : WriteAnswer × Channel :=
  match c.outbound with
  | a :: rest => (a, { c with outbound := rest })
  | [] => (Config.writeDraw c.draws, { c with draws := c.draws + 1 })

/-- The next answer to a `ChRead`: the oldest one fixed, or a draw. -/
def Channel.nextRead (c : Channel) : ReadAnswer × Channel :=
  match c.inbound with
  | a :: rest => (a, { c with inbound := rest })
  | [] => (Config.readDraw c.draws, { c with draws := c.draws + 1 })

/-- Bytes that have arrived and were not asked for stay in the inbound stream, before all later ones (R33, R59;
assumption 22). -/
def Channel.keep (c : Channel) (left : List Byte) : Channel :=
  if left.isEmpty then c else { c with inbound := .bytes left :: c.inbound }

/-- The transaction is over: it stands last in the log. -/
def Channel.record (c : Channel) (t : Transaction) : Channel := { c with log := c.log ++ [t] }

/-- A count beyond the bytes offered is outside the contract of R14; it stands for all of them
(DESIGN CHOICE, assumption 6). -/
def writeWithin (offered : Nat) : WriteAnswer → WriteAnswer
  | .written k => .written (min k offered)
  | .ioError => .ioError

/-- `ChWrite(s)` (R14, R52). -/
def Channel.write (c : Channel) (s : List Byte) : WriteAnswer × Channel :=
  let r := writeWithin s.length c.nextWrite.1
  (r, c.nextWrite.2.record (.write s r))

/-- `ChRead(max, t)` (R14, R53). -/
def Channel.read (c : Channel) (max : Nat) (t : WaitBound) : ReadAnswer × Channel :=
  match c.nextRead.1 with
  | .ioError => (.ioError, c.nextRead.2.record (.read max t .ioError))
  | .bytes r => (.bytes (r.take max), (c.nextRead.2.keep (r.drop max)).record (.read max t (.bytes (r.take max))))

/-! ## Registers -/

/-- `phase <- p` (R13). -/
def State.setPhase (s : State) (p : Phase) : State := { s with phase := p }

/-- The Channel after a transaction. -/
def State.setChan (s : State) (c : Channel) : State := { s with chan := c }

/-- A result is returned to the Host. -/
def State.respond (s : State) (r : HostResult) : State := { s with ret := some r }

/-- `SEL <- d` (43_drive_state.md R117). -/
def State.setSel (s : State) (d : Option (Fin 4)) : State := { s with sel := d }

/-- `HEAD[d] <- v` (R118). -/
def State.setHeadBit (s : State) (d : Fin 4) (v : Bool) : State := { s with head := s.head.set d.val v d.isLt }

/-- `KIND <- k`, `CMD <- frame`, `phase <- SEND_CMD`: the end of every accept step (R101 to R103). -/
def State.beginExchange (s : State) (k : Kind) (frame : List Byte) : State :=
  { s with kind := k, cmd := memWrite s.cmd 0 frame, phase := .sendCmd }

/-- `L <- TRACK_LEN(geometry)` (R30). -/
def State.latchLen (s : State) (g : Geometry) : State := { s with len := g }

/-- `MemWrite(TB, 0, L, data)` (R103; assumption 21). -/
def State.latchPayload (s : State) (data : List Byte) : State := { s with tb := memWrite s.tb 0 data }

/-- `FN <- 0; TN <- 0` (R104). -/
def State.clearCounts (s : State) : State := { s with fn := 0, tn := 0 }

/-- `FN <- 0` (R110, R113). -/
def State.clearFrame (s : State) : State := { s with fn := 0 }

/-- `MemWrite(FB, FN, len(v), v)`, `FN <- FN + len(v)` (R105). -/
def State.pushFrame (s : State) (v : List Byte) : State :=
  { s with fb := memWrite s.fb s.fn v, fn := s.fn + v.length }

/-- `MemWrite(TB, TN, len(v), v)`, `TN <- TN + len(v)` (R111). -/
def State.pushTrack (s : State) (v : List Byte) : State :=
  { s with tb := memWrite s.tb s.tn v, tn := s.tn + v.length }

/-- `MemWrite(TB, L, 2, LE16(cksum16(TB[0..L-1])))` (R113). -/
def State.appendChecksum (s : State) : State :=
  { s with tb := memWrite s.tb s.L (le16 (cksum16 (memRead s.tb 0 s.L))) }

/-- The Host's next operation is taken. -/
def State.dropPending (s : State) : State := { s with pending := s.pending.tail }

/-! ## Ending an exchange -/

/-- `finish O` (R13, R132): the only way out of an exchange. It writes `OUT` and `phase` and nothing else. -/
def State.finish (s : State) (o : ExOutcome) : State := { s with out := o, phase := .done }

/-- The return from `DONE` (R116, R133): the Host gets `OUT` and the engine goes idle. -/
def State.returnOutcome (s : State) : State := { s with ret := some (.outcome s.out), phase := .idle }

/-- Runs a host operation where the Host has a step, in `IDLE` only (R100). -/
def whenIdle (s : State) (r : StepResult) : StepResult :=
  if s.phase = .idle then r else .refused .hostBlocked

end Sys2Proof.Machine
end

