-- ==== Sys2Proof/Machine/Codec.lean ====
section
/-!
DEFINITION. The meanings of the codec operations FC_* (40_frame_codec.md) and TC_* (41_track_codec.md). Each returns its
result at once and changes no register (42_session.md R100).
-/
namespace Sys2Proof.Machine

/-- `FC_ENCODE` (R86). -/
def execFcEncode (tag : List Byte) (p1 p2 : Word) (s : State) : StepResult :=
  whenIdle s <| match tagArg tag with
    | some t => .next (s.respond (.bytes (fcEncode t p1 p2)))
    | none => .refused (.illTyped .tagLength)

/-- `FC_DECODE` (R87). -/
def execFcDecode (f : List Byte) (s : State) : StepResult :=
  whenIdle s <|
    if f.length = Config.frameLen then .next (s.respond (.frame (fcDecode f)))
    else .refused (.illTyped .frameLength)

/-- `TC_CHECKSUM` (R93). -/
def execTcChecksum (payload : List Byte) (s : State) : StepResult :=
  whenIdle s (.next (s.respond (.word (tcChecksum payload))))

/-- `TC_APPEND` (R94). -/
def execTcAppend (payload : List Byte) (s : State) : StepResult :=
  whenIdle s (.next (s.respond (.bytes (tcAppend payload))))

/-- `TC_VALIDATE` (R95). -/
def execTcValidate (x : List Byte) (expectedLength : Nat) (s : State) : StepResult :=
  whenIdle s (.next (s.respond (.track (tcValidate x expectedLength))))

end Sys2Proof.Machine
end

