-- ==== Sys2Proof/Machine/Drive.lean ====
section
/-!
DEFINITION. The meanings of the Drive State operations (43_drive_state.md).
-/
namespace Sys2Proof.Machine

/-- `DS_SELECT` (R117). -/
def execDsSelect (idx : Option Nat) (s : State) : StepResult :=
  whenIdle s <| match selectArg idx with
    | some d => .next ((s.setSel d).respond .done)
    | none => .refused (.illTyped .driveIndex)

/-- `DS_HEAD` (R118). -/
def execDsHead (idx : Nat) (v : Bool) (s : State) : StepResult :=
  whenIdle s <| match driveArg idx with
    | some d => .next ((s.setHeadBit d v).respond .done)
    | none => .refused (.illTyped .driveIndex)

/-- `DS_HEADMAP` (R119). -/
def execDsHeadmap (s : State) : StepResult :=
  whenIdle s (.next (s.respond (.word (headmap s.head))))

end Sys2Proof.Machine
end

