-- ==== Sys2Proof/Machine/Exchange.lean ====
section
/-!
DEFINITION. The meanings of the exchange operations: their accept steps (42_session.md R101 to R103). The rest of an
exchange is the engine's steps in Session.lean, Wire.lean and Fetch.lean.
-/
namespace Sys2Proof.Machine

/-- `EX_STAT` (R101). It has no drive precondition. -/
def execExStat (s : State) : StepResult :=
  whenIdle s (.next (s.beginExchange .stat (fcEncode tagStat (statParam1 s.sel s.head) 0)))

/-- `EX_READ` (R102; assumption 15). -/
def execExRead (track : Nat) (geometry : Geometry) (s : State) : StepResult :=
  whenIdle s <| match trackArg track with
    | none => .refused (.illTyped .trackNumber)
    | some t => match s.sel with
      | none => .next (s.finish .invalidDrive)
      | some d => .next ((s.latchLen geometry).beginExchange .read
          (fcEncode tagRead (packTrack t (driveNibble d)) (lenWord geometry)))

/-- `EX_WRIT` (R103; assumptions 15 and 21). -/
def execExWrit (track : Nat) (geometry : Geometry) (data : List Byte) (s : State) : StepResult :=
  whenIdle s <| match trackArg track with
    | none => .refused (.illTyped .trackNumber)
    | some t =>
      if data.length ≠ geometry.trackLen then .refused (.illTyped .dataLength)
      else match s.sel with
        | none => .next (s.finish .invalidDrive)
        | some d => .next (((s.latchLen geometry).latchPayload data).beginExchange .writ
            (fcEncode tagWrit (packTrack t (driveNibble d)) (lenWord geometry)))

end Sys2Proof.Machine
end

