-- ==== Sys2Proof/Machine/Session.lean ====
section
/-!
DEFINITION. The engine's own steps in an exchange (42_session.md): transmit (R104), the frame read attempt (R105), the
arbiter (R106 to R110), the payload wait (R111, R112, R114) and the payload transmit (R113). Each makes at most one
channel transaction.
-/
namespace Sys2Proof.Machine

/-- The first wait phase of an exchange (R104). -/
def firstWait : Kind → Phase
  | .read => .awaitPayload
  | .stat => .awaitFrame
  | .writ => .awaitFrame

/-- R104: one `ChWrite` of the command frame. A short write is an `IoError` (92_eei_decisions.md D8,
assumption 12). -/
def transmitCommand (frame : List Byte) (s : State) : State :=
  let (r, c) := s.chan.write frame
  if r = .written frame.length then ((s.setChan c).clearCounts).setPhase (firstWait s.kind)
  else (s.setChan c).finish .ioError

/-- What one frame read attempt leads to: the step is over, or `FB` is full. -/
inductive FrameAttempt where
  | ended (s : State)
  | full (s : State)

/-- R105: one `ChRead` of the bytes still missing from `FB` (assumption 10). -/
def frameAttempt (s : State) : FrameAttempt :=
  let (r, c) := s.chan.read (Config.frameLen - s.fn) .frame
  match r with
  | .ioError => .ended ((s.setChan c).finish .ioError)
  | .bytes v =>
    if v.isEmpty then .ended ((s.setChan c).finish .timeout)
    else
      let t := (s.setChan c).pushFrame v
      if t.fn = Config.frameLen then .full t else .ended t

/-- R110: a checksum-invalid frame is dropped whole and the wait goes on (assumption 11). -/
def ignoreFrame (s : State) : State := s.clearFrame

/-- R108 on a valid frame: the exchange ends or goes on to the payload. -/
def acknowledge (tag : Tag) (rcode : Word) (s : State) : State :=
  match ackVerdict tag rcode with
  | some o => s.finish o
  | none => s.setPhase .readyToSend

/-- The arbiter on a valid frame (R106): which of R107, R108 and R109 applies. A frame has no meaning outside the frame
waits (R68), and R106 has no case for `AWAIT_FRAME` with `KIND = READ` (assumption 17). -/
def arbitrate (tag : Tag) (rcode rdata : Word) (s : State) : StepResult :=
  match s.phase with
  | .awaitFrame =>
    match s.kind with
    | .stat => .next (s.finish (statVerdict tag rdata))
    | .writ => .next (acknowledge tag rcode s)
    | .read => .fault .noArbiterRule
  | .awaitWsta => .next (s.finish (finalVerdict tag rcode))
  | .idle => .refused .notAwaitingFrame
  | .sendCmd => .refused .notAwaitingFrame
  | .awaitPayload => .refused .notAwaitingFrame
  | .readyToSend => .refused .notAwaitingFrame
  | .done => .refused .notAwaitingFrame

/-- R112: the check of a complete READ payload. -/
def checkPayload (s : State) : StepResult :=
  match payloadVerdict (s.L + 2) (tcValidate (memRead s.tb 0 (s.L + 2)) s.L) with
  | some o => .next (s.finish o)
  | none => .fault .payloadLength

/-- R111, and R114 for a read of no bytes: one `ChRead` of the bytes still missing from `TB`
(assumptions 10 and 16). -/
def payloadStep (s : State) : StepResult :=
  let (r, c) := s.chan.read (s.L + 2 - s.tn) .chunk
  match r with
  | .ioError => .next ((s.setChan c).finish .ioError)
  | .bytes v =>
    if v.isEmpty then .next ((s.setChan c).finish (.partialData s.tn))
    else
      let t := (s.setChan c).pushTrack v
      if t.tn = t.L + 2 then checkPayload t else .next t

/-- R113: the checksum goes behind the payload, and one `ChWrite` offers both (assumption 12). -/
def sendPayload (s : State) : State :=
  let t := s.appendChecksum
  let (r, c) := t.chan.write (memRead t.tb 0 (t.L + 2))
  if r = .written (t.L + 2) then ((t.setChan c).clearFrame).setPhase .awaitWsta
  else (t.setChan c).finish .ioError

end Sys2Proof.Machine
end

