-- ==== Sys2Proof/Machine/Wire.lean ====
section
/-!
DEFINITION. The meanings of the wire frames. A request frame is sent: it is the frame of R104, in `SEND_CMD`. A response
frame is judged: it is the valid frame the arbiter of R106 has before it, in a frame wait.
-/
namespace Sys2Proof.Machine

/-- Sends a request frame where the engine sends one, in `SEND_CMD` only (20_memory.md R46, R104;
assumption 17). -/
def sendRequest (i : Instr) (s : State) : StepResult :=
  if s.phase = .sendCmd then .next (transmitCommand (encode i) s) else .refused .notSending

/-- `REQ_STAT` (R101, R104). -/
def execReqStat (sel : Byte) (heads : BitVec 4) (s : State) : StepResult :=
  sendRequest (.reqStat sel heads) s

/-- `REQ_READ` (R102, R104). -/
def execReqRead (track : BitVec 12) (drive : BitVec 4) (len : Word) (s : State) : StepResult :=
  sendRequest (.reqRead track drive len) s

/-- `REQ_WRIT` (R103, R104). -/
def execReqWrit (track : BitVec 12) (drive : BitVec 4) (len : Word) (s : State) : StepResult :=
  sendRequest (.reqWrit track drive len) s

/-- `RSP_STAT` (R107; in another wait R108, R109). -/
def execRspStat (rcode rdata : Word) (s : State) : StepResult := arbitrate tagStat rcode rdata s

/-- `RSP_WRIT` (R108; in another wait R107, R109). -/
def execRspWrit (rcode rdata : Word) (s : State) : StepResult := arbitrate tagWrit rcode rdata s

/-- `RSP_WSTA` (R109; in another wait R107, R108). -/
def execRspWsta (rcode rdata : Word) (s : State) : StepResult := arbitrate tagWsta rcode rdata s

end Sys2Proof.Machine
end

