-- ==== Sys2Proof/Machine/Dispatch.lean ====
section
/-! DEFINITION. One meaning for each instruction. -/
namespace Sys2Proof.Machine

def exec (i : Instr) (s : State) : Host.Outcome State Fault Refusal :=
  match i with
  | .reqStat sel heads => Sys2Proof.Machine.execReqStat sel heads s
  | .reqRead track drive len => Sys2Proof.Machine.execReqRead track drive len s
  | .reqWrit track drive len => Sys2Proof.Machine.execReqWrit track drive len s
  | .rspStat rcode rdata => Sys2Proof.Machine.execRspStat rcode rdata s
  | .rspWrit rcode rdata => Sys2Proof.Machine.execRspWrit rcode rdata s
  | .rspWsta rcode rdata => Sys2Proof.Machine.execRspWsta rcode rdata s
  | .exStat => Sys2Proof.Machine.execExStat s
  | .exRead track geometry => Sys2Proof.Machine.execExRead track geometry s
  | .exWrit track geometry data => Sys2Proof.Machine.execExWrit track geometry data s
  | .dsSelect idx => Sys2Proof.Machine.execDsSelect idx s
  | .dsHead idx v => Sys2Proof.Machine.execDsHead idx v s
  | .dsHeadmap => Sys2Proof.Machine.execDsHeadmap s
  | .fcEncode tag p1 p2 => Sys2Proof.Machine.execFcEncode tag p1 p2 s
  | .fcDecode f => Sys2Proof.Machine.execFcDecode f s
  | .tcChecksum payload => Sys2Proof.Machine.execTcChecksum payload s
  | .tcAppend payload => Sys2Proof.Machine.execTcAppend payload s
  | .tcValidate x expectedLength => Sys2Proof.Machine.execTcValidate x expectedLength s

end Sys2Proof.Machine
end

