-- ==== Sys2Proof/Machine/Fetch.lean ====
section
/-!
DEFINITION. What the engine takes up next. In `IDLE` it is the Host's next operation, in `SEND_CMD` the frame in `CMD`,
in a frame wait the frame that a read attempt completes in `FB`; every other step is the engine's own (42_session.md).
-/
namespace Sys2Proof.Machine

/-- An instruction to run in a state, or the end of a step that runs none. -/
inductive Fetched where
  | run (i : Instr) (s : State)
  | ended (r : StepResult)

/-- The Host's next operation (R100). With none pending nothing happens (assumption 7). -/
def fetchHost (s : State) : Fetched :=
  match s.pending with
  | [] => .ended (.next s)
  | msg :: _ =>
    match decode .host msg with
    | .ok i => .run i s.dropPending
    | .error e => .ended (.refused (.undecodable e))

/-- The command frame (R104). The accept steps leave only request frames in `CMD`; the rule sends whatever it holds
(assumption 18). -/
def fetchRequest (s : State) : Fetched :=
  match decode .request s.cmd.toList with
  | .ok i => .run i s
  | .error _ => .ended (.next (transmitCommand s.cmd.toList s))

/-- The complete frame in `FB` (R106): ignored when invalid, run when it is a response row of the table, and judged by
the arbiter as it stands when its tag is of no row (assumption 18). -/
def fetchComplete (s : State) : Fetched :=
  match fcDecode s.fb.toList with
  | .checksumInvalid => .ended (.next (ignoreFrame s))
  | .ok tag rcode rdata =>
    match responseOf tag rcode rdata with
    | .ok i => .run i s
    | .error _ => .ended (arbitrate tag rcode rdata s)

/-- A frame wait: one read attempt, and the frame if that completes it (R105). -/
def fetchResponse (s : State) : Fetched :=
  match frameAttempt s with
  | .ended t => .ended (.next t)
  | .full t => fetchComplete t

/-- What a step takes up, by phase. -/
def fetch (s : State) : Fetched :=
  match s.phase with
  | .idle => fetchHost s
  | .sendCmd => fetchRequest s
  | .awaitFrame => fetchResponse s
  | .awaitWsta => fetchResponse s
  | .awaitPayload => .ended (payloadStep s)
  | .readyToSend => .ended (.next (sendPayload s))
  | .done => .ended (.next s.returnOutcome)

/-- The phase and kind in which a request frame with this tag is taken. -/
def requestKind (tag : Tag) : Kind :=
  if tag = tagRead then .read else if tag = tagWrit then .writ else .stat

/-- The frame wait that expects a response frame with this tag (R68). -/
def responseWait (tag : Tag) : Phase × Kind :=
  if tag = tagWsta then (.awaitWsta, .writ) else if tag = tagWrit then (.awaitFrame, .writ) else (.awaitFrame, .stat)

/-- Places an instruction's bytes where the next step takes them: a host message in `IDLE` before all pending ones, a
request frame in `CMD` in `SEND_CMD`, a response frame in the inbound stream of the wait that expects it. -/
def placeAt (s : State) : Port × List Byte → State
  | (.host, bytes) => { s with phase := .idle, pending := bytes :: s.pending }
  | (.request, bytes) =>
    { s with phase := .sendCmd, kind := requestKind (tagOf bytes), cmd := memWrite s.cmd 0 bytes }
  | (.response, bytes) =>
    { s with
      phase := (responseWait (tagOf bytes)).1
      kind := (responseWait (tagOf bytes)).2
      fn := 0
      chan := { s.chan with inbound := .bytes bytes :: s.chan.inbound } }

end Sys2Proof.Machine
end

