-- ==== Sys2Proof/Machine/Step.lean ====
section
/-! DEFINITION. One step of the machine (42_session.md): what the fetch takes up is run by `exec`. -/
namespace Sys2Proof.Machine

/-- One step of the machine. -/
def step (s : State) : Host.Outcome State Fault Refusal :=
  match fetch s with
  | .run i t => exec i t
  | .ended r => r

/-- `s` with the instruction of a table word placed where `step` takes its next instruction (assumption 5). -/
def State.withFetchWord (s : State) (nbits w : Nat) : State := placeAt s (tableBytes nbits w)

end Sys2Proof.Machine
end

