-- ==== Sys2Proof/Machine/BigStep.lean ====
section
/-!
DEFINITION. The big-step form of the three exchanges (42_session.md R125), written on the Channel alone. The engine does
not run it: `step` does what R100 to R116 say. R125 says the two agree; the statements say so of these definitions.
-/
namespace Sys2Proof.Machine

/-- How `waitFrame` of R125 ends. -/
inductive FrameWait where
  | ioError
  | timeout
  | frame (tag : Tag) (rcode rdata : Word)
deriving DecidableEq, Repr

/-- `waitFrame` of R125, from `got` bytes on. A frame wait can go on for ever (R159), so it takes at most `fuel` read
attempts and has no answer beyond them (assumption 24). -/
def waitFrame : Nat → List Byte → Channel → Option (FrameWait × Channel)
  | 0, _, _ => none
  | fuel + 1, got, c =>
    match c.read (Config.frameLen - got.length) .frame with
    | (.ioError, c') => some (.ioError, c')
    | (.bytes v, c') =>
      if v.isEmpty then some (.timeout, c')
      else if (got ++ v).length = Config.frameLen then
        match fcDecode (got ++ v) with
        | .ok tag rcode rdata => some (.frame tag rcode rdata, c')
        | .checksumInvalid => waitFrame fuel [] c'
      else waitFrame fuel (got ++ v) c'

/-- The payload loop of R125, from `got` bytes on, with at most `fuel` read attempts. -/
def readPayload (len : Nat) : Nat → List Byte → Channel → Option (ExOutcome × Channel)
  | 0, _, _ => none
  | fuel + 1, got, c =>
    match c.read (len + 2 - got.length) .chunk with
    | (.ioError, c') => some (.ioError, c')
    | (.bytes v, c') =>
      if v.isEmpty then some (.partialData got.length, c')
      else if (got ++ v).length = len + 2 then
        (payloadVerdict (len + 2) (tcValidate (got ++ v) len)).map fun o => (o, c')
      else readPayload len fuel (got ++ v) c'

/-- The STAT exchange of R125 from `IDLE` to its outcome. -/
def bigStat (fuel : Nat) (s : State) : Option (ExOutcome × Channel) :=
  let cmd := fcEncode tagStat (statParam1 s.sel s.head) 0
  match s.chan.write cmd with
  | (r, c) =>
    if r ≠ .written cmd.length then some (.ioError, c)
    else
      match waitFrame fuel [] c with
      | none => none
      | some (.ioError, c') => some (.ioError, c')
      | some (.timeout, c') => some (.timeout, c')
      | some (.frame tag _ rdata, c') => some (statVerdict tag rdata, c')

/-- The READ exchange of R125. Every attempt brings a byte or ends it, so `L + 2` attempts are enough (R123). -/
def bigRead (track : BitVec 12) (geometry : Geometry) (s : State) : Option (ExOutcome × Channel) :=
  match s.sel with
  | none => some (.invalidDrive, s.chan)
  | some d =>
    let cmd := fcEncode tagRead (packTrack track (driveNibble d)) (lenWord geometry)
    match s.chan.write cmd with
    | (r, c) =>
      if r ≠ .written cmd.length then some (.ioError, c)
      else readPayload geometry.trackLen (geometry.trackLen + 2) [] c

/-- The second half of the WRIT exchange: the payload write and the final status. -/
def bigWritFinish (fuel : Nat) (data : List Byte) (c : Channel) : Option (ExOutcome × Channel) :=
  match c.write (tcAppend data) with
  | (r, c') =>
    if r ≠ .written (tcAppend data).length then some (.ioError, c')
    else
      match waitFrame fuel [] c' with
      | none => none
      | some (.ioError, c'') => some (.ioError, c'')
      | some (.timeout, c'') => some (.timeout, c'')
      | some (.frame tag rcode _, c'') => some (finalVerdict tag rcode, c'')

/-- The WRIT exchange of R125; each of its two frame waits takes at most `fuel` attempts. -/
def bigWrit (fuel : Nat) (track : BitVec 12) (geometry : Geometry) (data : List Byte) (s : State) :
    Option (ExOutcome × Channel) :=
  match s.sel with
  | none => some (.invalidDrive, s.chan)
  | some d =>
    let cmd := fcEncode tagWrit (packTrack track (driveNibble d)) (lenWord geometry)
    match s.chan.write cmd with
    | (r, c) =>
      if r ≠ .written cmd.length then some (.ioError, c)
      else
        match waitFrame fuel [] c with
        | none => none
        | some (.ioError, c') => some (.ioError, c')
        | some (.timeout, c') => some (.timeout, c')
        | some (.frame tag rcode _, c') =>
          match ackVerdict tag rcode with
          | some o => some (o, c')
          | none => bigWritFinish fuel data c'

end Sys2Proof.Machine
end

