-- ==== Sys2Proof/Safety.lean ====
section
/-!
DEFINITION. The terms in which claims about runs are made: the invariant of the reachable states, a step that does not
fault, and which registers are live (70_reset_and_hazards.md R151).
-/
namespace Sys2Proof.Machine

/-- The payload of an outcome is one that 60_exceptions.md R126 allows. -/
def ExOutcome.legit : ExOutcome → Bool
  | .statOk _ => true
  | .readOk count data =>
    decide (count = data.length + 2) &&
      (decide (data.length = Geometry.eightInch.trackLen) || decide (data.length = Geometry.mini.trackLen))
  | .writOk => true
  | .invalidDrive => true
  | .ioError => true
  | .timeout => true
  | .tagMismatch expected received =>
    decide (expected ≠ received) &&
      (decide (expected = tagStat) || decide (expected = tagWrit) || decide (expected = tagWsta))
  | .remoteRefusal _ code => decide (code ≠ 0)
  | .readChecksumInvalid count =>
    decide (count = Geometry.eightInch.trackLen + 2) || decide (count = Geometry.mini.trackLen + 2)
  | .partialData count => decide (count < Geometry.eightInch.trackLen + 2)
  | .noOutcome => true

/-- The instruction is a request frame of an exchange of this kind with this track length (R69, R70). -/
def isRequestOf (k : Kind) (g : Geometry) : Instr → Bool
  | .reqStat _ _ => decide (k = .stat)
  | .reqRead _ drive len => decide (k = .read) && decide (drive.toNat < 4) && decide (len = lenWord g)
  | .reqWrit _ drive len => decide (k = .writ) && decide (drive.toNat < 4) && decide (len = lenWord g)
  | .rspStat _ _ => false
  | .rspWrit _ _ => false
  | .rspWsta _ _ => false
  | .exStat => false
  | .exRead _ _ => false
  | .exWrit _ _ _ => false
  | .dsSelect _ => false
  | .dsHead _ _ => false
  | .dsHeadmap => false
  | .fcEncode _ _ _ => false
  | .fcDecode _ => false
  | .tcChecksum _ => false
  | .tcAppend _ => false
  | .tcValidate _ _ => false

/-- `CMD` holds the request frame of the exchange in flight (R27). -/
def State.cmdOk (s : State) : Bool :=
  match decode .request s.cmd.toList with
  | .ok i => isRequestOf s.kind s.len i
  | .error _ => false

/-- The counts in the outcome of an exchange that has just ended are those of its own `L` (R112, R114). -/
def State.outFits (s : State) : Bool :=
  match s.out with
  | .readOk count data => decide (count = s.L + 2) && decide (data.length = s.L)
  | .readChecksumInvalid count => decide (count = s.L + 2)
  | .partialData count => decide (count < s.L + 2)
  | .statOk _ => true
  | .writOk => true
  | .invalidDrive => true
  | .ioError => true
  | .timeout => true
  | .tagMismatch _ _ => true
  | .remoteRefusal _ _ => true
  | .noOutcome => false

/-- What each phase promises (R25, R105, R111, R124). -/
def State.phaseOk (s : State) : Bool :=
  match s.phase with
  | .idle => true
  | .sendCmd => s.cmdOk
  | .awaitFrame => decide (s.fn < Config.frameLen) && decide (s.kind ≠ .read)
  | .awaitPayload => decide (s.tn < s.L + 2) && decide (s.kind = .read)
  | .readyToSend => decide (s.kind = .writ)
  | .awaitWsta => decide (s.fn < Config.frameLen) && decide (s.kind = .writ)
  | .done => s.outFits

/-- The invariant of the reachable states: the counts stay in their ranges (R28, R29), `OUT` holds a legitimate outcome
(R126), and each phase keeps its promise. -/
abbrev State.Inv (s : State) : Prop :=
  s.fn ≤ Config.frameLen ∧ s.tn ≤ Config.trackBufCap ∧ s.out.legit = true ∧ s.phaseOk = true

/-- The step does not stop with a fault. -/
def StepResult.isSafe : StepResult → Bool
  | .next _ => true
  | .fault _ => false
  | .refused _ => true

/-- `s` and `t` agree on the registers that are live in their phase beside those that are always live (R151). -/
def samePhaseLive (s t : State) : Prop :=
  match s.phase with
  | .idle => True
  | .sendCmd =>
    s.kind = t.kind ∧ s.cmd = t.cmd ∧ (s.kind = .read → s.len = t.len) ∧
      (s.kind = .writ → s.len = t.len ∧ memRead s.tb 0 s.L = memRead t.tb 0 t.L)
  | .awaitFrame =>
    s.kind = t.kind ∧ s.fn = t.fn ∧ memRead s.fb 0 s.fn = memRead t.fb 0 t.fn ∧
      (s.kind = .writ → s.len = t.len ∧ memRead s.tb 0 s.L = memRead t.tb 0 t.L)
  | .awaitPayload => s.len = t.len ∧ s.tn = t.tn ∧ memRead s.tb 0 s.tn = memRead t.tb 0 t.tn
  | .readyToSend => s.len = t.len ∧ memRead s.tb 0 s.L = memRead t.tb 0 t.L
  | .awaitWsta => s.fn = t.fn ∧ memRead s.fb 0 s.fn = memRead t.fb 0 t.fn
  | .done => True

/-- `s` and `t` differ at most in registers that no rule reads before it writes them (R151). -/
def SameLive (s t : State) : Prop :=
  s.head = t.head ∧ s.sel = t.sel ∧ s.phase = t.phase ∧ s.out = t.out ∧ s.pending = t.pending ∧ s.ret = t.ret ∧
    s.chan = t.chan ∧ samePhaseLive s t

/-- Two steps end alike: in states that agree on what is live, or with the same stop. -/
def sameResult : StepResult → StepResult → Prop
  | .next s, .next t => SameLive s t
  | .fault f, .fault g => f = g
  | .refused f, .refused g => f = g
  | .next _, .fault _ => False
  | .next _, .refused _ => False
  | .fault _, .next _ => False
  | .fault _, .refused _ => False
  | .refused _, .next _ => False
  | .refused _, .fault _ => False

end Sys2Proof.Machine
end

