-- ==== Sys2Proof/Certificates/Slice0/Obligations.lean ====
section
/-!
DEFINITION. The statements about the machine, one definition each. A next state is written out as the state before with
the changed fields, so that a statement of a result is also the statement of its frame.
-/

open Sys2Proof Sys2Proof.Machine

/-! ## Bytes, buffers and the Channel -/

/-- 00_scope.md R12 and 20_memory.md R47: a word stands low byte first, reads back from its two bytes wherever they
stand, and `cksum16` is the byte sum mod 65536. -/
def Obligations.WordsAreLittleEndian : Prop :=
  ∀ (w : Word) (s t : List Byte),
    le16 w = [BitVec.ofNat 8 (w.toNat % 256), BitVec.ofNat 8 (w.toNat / 256)] ∧
    rd16 (s ++ le16 w ++ t) s.length = w ∧
    (∀ a b : Byte, (rd16 (s ++ a :: b :: t) s.length).toNat = a.toNat + 256 * b.toNat) ∧
    (cksum16 s).toNat = (s.map BitVec.toNat).sum % 65536

/-- 00_scope.md R13, 20_memory.md R46, R54: a range of a buffer that is written reads back as written, and every byte
outside it is left alone. -/
def Obligations.BufferWriteReadsBack : Prop :=
  ∀ (size : Nat) (b : Buffer size) (i : Nat) (v : List Byte), i + v.length ≤ size →
    memRead (memWrite b i v) i v.length = v ∧
    ∀ (j : Nat) (hj : j < size), (j < i ∨ i + v.length ≤ j) → (memWrite b i v)[j] = b[j]

/-- 00_scope.md R14 and R16: every answer of the Channel is within the contract, and every answer within the contract
can come; each call is one transaction of the log. -/
def Obligations.ChannelAnswersWithinContract : Prop :=
  (∀ (c : Channel) (v : List Byte) (k : Nat), (c.write v).1 = .written k → k ≤ v.length) ∧
  (∀ (c : Channel) (max : Nat) (t : WaitBound) (r : List Byte), (c.read max t).1 = .bytes r → r.length ≤ max) ∧
  (∀ (c : Channel) (v : List Byte) (a : WriteAnswer), (∀ k, a = .written k → k ≤ v.length) →
    ({ c with outbound := a :: c.outbound }.write v) =
      (a, { c with log := c.log ++ [.write v a] })) ∧
  (∀ (c : Channel) (max : Nat) (t : WaitBound) (a : ReadAnswer), (∀ r, a = .bytes r → r.length ≤ max) →
    ({ c with inbound := a :: c.inbound }.read max t) =
      (a, { c with log := c.log ++ [.read max t a] }))

/-- The model's choice (assumption 6, and assumption 22 for `keep`): no answer of 00_scope.md R14 is longer than was asked
for, so a fixed answer that is, its splitting and the counter `draws` are the model's own. Split so, it keeps the rules of
the stream (20_memory.md R53 and R59, 70_reset_and_hazards.md R155): a read consumes what it returns, and bytes that were
not asked for stay first in the inbound stream, for a later read. -/
def Obligations.UnreadBytesStayFirst : Prop :=
  ∀ (c : Channel) (v : List Byte) (rest : List ReadAnswer) (max : Nat) (t : WaitBound),
    c.inbound = .bytes v :: rest → max < v.length →
    (c.read max t).1 = .bytes (v.take max) ∧ (c.read max t).2.inbound = .bytes (v.drop max) :: rest ∧
    (c.read max t).2.outbound = c.outbound ∧ (c.read max t).2.draws = c.draws

/-! ## Encoding -/

/-- 30_encoding.md R66 to R71, R76 (host messages: assumption 4): decoding the encoding of a well-formed instruction
gives it back, with every operand. -/
def Obligations.DecodeEncodeRoundTrip : Prop :=
  ∀ i : Instr, i.wf = true → decode i.port (encode i) = .ok i

/-- 30_encoding.md R66, R68, R74: a frame that decodes at a port is the encoding of what it decodes to, so no two frames
mean the same instruction and no bit of a frame is dropped. -/
def Obligations.FramesHaveOneMeaning : Prop :=
  ∀ (f : List Byte) (i : Instr),
    (decode .request f = .ok i → i.port = .request ∧ encode i = f) ∧
    (decode .response f = .ok i → i.port = .response ∧ encode i = f)

/-- Words written out from 95_test_vectors.md (V-FC and P1 to P9) and the numbers of 30_encoding.md R76 decode to what
they stand for; the operand layout of the host messages is assumption 4. -/
def Obligations.SpecWordsDecode : Prop :=
  decode .request [0x53, 0x54, 0x41, 0x54, 0x02, 0x04, 0x00, 0x00, 0x42, 0x01] = .ok (.reqStat 2 4) ∧
  decode .request [0x52, 0x45, 0x41, 0x44, 0x05, 0x10, 0x20, 0x11, 0x62, 0x01] = .ok (.reqRead 5 1 4384) ∧
  decode .request [0x57, 0x52, 0x49, 0x54, 0x03, 0x10, 0x90, 0x08, 0xF1, 0x01] = .ok (.reqWrit 3 1 2192) ∧
  decode .response [0x53, 0x54, 0x41, 0x54, 0x00, 0x00, 0x05, 0x00, 0x41, 0x01] = .ok (.rspStat 0 5) ∧
  decode .response [0x57, 0x52, 0x49, 0x54, 0x01, 0x00, 0x00, 0x00, 0x47, 0x01] = .ok (.rspWrit 1 0) ∧
  decode .response [0x57, 0x53, 0x54, 0x41, 0x34, 0x12, 0x00, 0x00, 0x85, 0x01] = .ok (.rspWsta 0x1234 0) ∧
  decode .response [0x53, 0x54, 0x41, 0x54, 0x00, 0x00, 0x05, 0x00, 0x40, 0x01] = .error .checksumInvalid ∧
  decode .host [0x01] = .ok .exStat ∧
  decode .host [0x12] = .ok .dsHeadmap ∧
  decodeTableWord 8 0x02 = some (.exRead 0 .eightInch) ∧
  decodeTableWord 32 0x57535441 = some (.rspWsta 0 0) ∧
  decodeTableWord 32 0x52454144 = some (.reqRead 0 0 0)

/-! ## The Frame Codec -/

/-- 40_frame_codec.md R86: the frame, no check of the tag (the spec's decision D19), the refusal of a tag of another
length (the spec's decision D14), the bound on byte 9, the checksum of all-zero parameters, and the example. The bytes of
the four tags in the last two are ASCII codes from outside the source (assumption 3). -/
def Obligations.FcEncodeBuildsFrame : Prop :=
  ∀ s : State, s.phase = .idle →
    (∀ (tag : Tag) (p1 p2 : Word),
      exec (.fcEncode tag.bytes p1 p2) s =
        .next { s with
          ret := some (.bytes (tag.bytes ++ le16 p1 ++ le16 p2 ++ le16 (cksum16 (tag.bytes ++ le16 p1 ++ le16 p2)))) }) ∧
    (∀ (tag : List Byte) (p1 p2 : Word), tag.length ≠ 4 →
      exec (.fcEncode tag p1 p2) s = .refused (.illTyped .tagLength)) ∧
    (∀ (tag : Tag) (p1 p2 : Word),
      (cksum16 (tag.bytes ++ le16 p1 ++ le16 p2)).toNat = byteSum (tag.bytes ++ le16 p1 ++ le16 p2) ∧
      (fcEncode tag p1 p2).length = 10 ∧ ((fcEncode tag p1 p2).getD 9 0).toNat ≤ 0x07) ∧
    (∀ tag ∈ [tagStat, tagRead, tagWrit, tagWsta],
      (rd16 (fcEncode tag 0 0) 8).toNat = byteSum tag.bytes ∧ rd16 (fcEncode tag 0 0) 8 ≠ 0) ∧
    exec (.fcEncode [0x53, 0x54, 0x41, 0x54] 0x0402 0x0000) s =
      .next { s with ret := some (.bytes [0x53, 0x54, 0x41, 0x54, 0x02, 0x04, 0x00, 0x00, 0x42, 0x01]) }

/-- 40_frame_codec.md R87: the fields of a valid frame of any tag (the spec's decision D19), `ChecksumInvalid` with none
of them for any other, the refusal of an input of another length (the spec's decision D14), the all-zero frame, the
checksums that can never be valid, and the examples, whose tag bytes are assumption 3. -/
def Obligations.FcDecodeChecksFrame : Prop :=
  ∀ s : State, s.phase = .idle →
    (∀ a0 a1 a2 a3 a4 a5 a6 a7 a8 a9 : Byte,
      exec (.fcDecode [a0, a1, a2, a3, a4, a5, a6, a7, a8, a9]) s =
        .next { s with
          ret := some (.frame
            (if rd16 [a8, a9] 0 = cksum16 [a0, a1, a2, a3, a4, a5, a6, a7]
              then .ok ⟨a0, a1, a2, a3⟩ (rd16 [a4, a5] 0) (rd16 [a6, a7] 0)
              else .checksumInvalid)) }) ∧
    (∀ f : List Byte, f.length ≠ 10 → exec (.fcDecode f) s = .refused (.illTyped .frameLength)) ∧
    exec (.fcDecode (List.replicate 10 0)) s = .next { s with ret := some (.frame (.ok ⟨0, 0, 0, 0⟩ 0 0)) } ∧
    (∀ f : List Byte, f.length = 10 → 2041 ≤ (rd16 f 8).toNat →
      exec (.fcDecode f) s = .next { s with ret := some (.frame .checksumInvalid) }) ∧
    exec (.fcDecode [0x53, 0x54, 0x41, 0x54, 0x00, 0x00, 0x05, 0x00, 0x41, 0x01]) s =
      .next { s with ret := some (.frame (.ok tagStat 0x0000 0x0005)) } ∧
    exec (.fcDecode [0x53, 0x54, 0x41, 0x54, 0x00, 0x00, 0x05, 0x00, 0x40, 0x01]) s =
      .next { s with ret := some (.frame .checksumInvalid) }

/-- 40_frame_codec.md R89: the sum of a frame never wraps, and is at most 2040. -/
def Obligations.FrameSumNeverWraps : Prop :=
  ∀ f : List Byte, f.length = 10 →
    (cksum16 (f.take 8)).toNat = byteSum (f.take 8) ∧ byteSum (f.take 8) ≤ 2040

/-- 40_frame_codec.md R90: round trip, self-consistency, detection of every single-bit error in all 80 bits, and
blindness to a permutation of the header bytes. -/
def Obligations.FrameCodecLaws : Prop :=
  (∀ (tag : Tag) (p1 p2 : Word), fcDecode (fcEncode tag p1 p2) = .ok tag p1 p2) ∧
  (∀ (tag : Tag) (p1 p2 : Word), rd16 (fcEncode tag p1 p2) 8 = cksum16 ((fcEncode tag p1 p2).take 8)) ∧
  (∀ (f : List Byte) (i k : Nat) (hi : i < f.length), f.length = 10 → k < 8 → frameValid f = true →
    fcDecode (f.set i (f[i] ^^^ BitVec.twoPow 8 k)) = .checksumInvalid) ∧
  (∀ f g : List Byte, f.length = 10 → g.length = 10 → (f.take 8).Perm (g.take 8) → f.drop 8 = g.drop 8 →
    frameValid f = frameValid g)

/-! ## The Track Transfer Codec -/

/-- 41_track_codec.md R93, whole: the running 16-bit sum, which is `cksum16`; nothing for the empty payload; the silent
wrap; no dependence on the order of the bytes; and the example. -/
def Obligations.TcChecksumIsRunningSum : Prop :=
  ∀ s : State, s.phase = .idle →
    (∀ p : List Byte,
      exec (.tcChecksum p) s = .next { s with ret := some (.word (p.foldl (fun acc b => acc + b.setWidth 16) 0)) } ∧
      exec (.tcChecksum p) s = .next { s with ret := some (.word (cksum16 p)) } ∧
      (cksum16 p).toNat = byteSum p % 65536) ∧
    exec (.tcChecksum []) s = .next { s with ret := some (.word 0x0000) } ∧
    (∀ p q : List Byte, p.Perm q → exec (.tcChecksum p) s = exec (.tcChecksum q) s) ∧
    exec (.tcChecksum (List.replicate 2192 0x01)) s = .next { s with ret := some (.word 0x0890) }

/-- 41_track_codec.md R94, whole: the payload unchanged, then its checksum, low byte first, and the example. -/
def Obligations.TcAppendAddsChecksum : Prop :=
  ∀ s : State, s.phase = .idle →
    (∀ p : List Byte, ∃ r : List Byte,
      exec (.tcAppend p) s = .next { s with ret := some (.bytes r) } ∧
      r.length = p.length + 2 ∧ r.take p.length = p ∧ rd16 r p.length = cksum16 p ∧
      r = p ++ [BitVec.ofNat 8 (byteSum p % 256), BitVec.ofNat 8 (byteSum p / 256 % 256)]) ∧
    exec (.tcAppend []) s = .next { s with ret := some (.bytes [0x00, 0x00]) } ∧
    exec (.tcAppend (List.replicate 2192 0x01)) s =
      .next { s with ret := some (.bytes (List.replicate 2192 0x01 ++ [0x90, 0x08])) }

/-- 41_track_codec.md R95 and R97, whole: the length first, then the checksum, then the payload without its checksum;
`E = 0`; and the examples. -/
def Obligations.TcValidateDecides : Prop :=
  ∀ s : State, s.phase = .idle →
    (∀ (x : List Byte) (e : Nat), x.length ≠ e + 2 →
      exec (.tcValidate x e) s = .next { s with ret := some (.track .lengthMismatch) }) ∧
    (∀ (p : List Byte) (a b : Byte),
      exec (.tcValidate (p ++ [a, b]) p.length) s =
        .next { s with
          ret := some (.track (if a.toNat + 256 * b.toNat = byteSum p % 65536 then .ok p else .checksumInvalid)) }) ∧
    (∀ x : List Byte,
      exec (.tcValidate x 0) s = .next { s with ret := some (.track (.ok [])) } ↔ x = [0x00, 0x00]) ∧
    (∀ p : List Byte,
      exec (.tcValidate (tcAppend p) p.length) s = .next { s with ret := some (.track (.ok p)) }) ∧
    exec (.tcValidate [0x00] 0) s = .next { s with ret := some (.track .lengthMismatch) }

/-- 41_track_codec.md R98: a sequence is accepted exactly when it is its own payload with its checksum appended. -/
def Obligations.TrackAcceptedIffAppended : Prop :=
  (∀ p : List Byte, tcValidate (tcAppend p) p.length = .ok p) ∧
  (∀ (x : List Byte) (e : Nat), x.length = e + 2 →
    ((∃ p, tcValidate x e = .ok p) ↔ x = tcAppend (x.take e)))

/-- 41_track_codec.md R96 and R99: a payload that sums to a multiple of 65536 has checksum zero, and a corruption that
keeps the byte sum mod 65536 is accepted. -/
def Obligations.TrackChecksumBlindSpots : Prop :=
  (∀ p : List Byte, byteSum p % 65536 = 0 → tcChecksum p = 0) ∧
  (∀ sent got : List Byte, got.length = sent.length → byteSum got % 65536 = byteSum sent % 65536 →
    tcValidate (got ++ le16 (cksum16 sent)) sent.length = .ok got)

/-! ## The Drive State -/

/-- 43_drive_state.md R117: `SEL` takes the drive or `NONE` and no other register changes, `HEAD` included; an index of 4
or more is refused (the spec's decision D30); and the example. -/
def Obligations.DsSelectSetsSel : Prop :=
  ∀ s : State, s.phase = .idle →
    (∀ d : Fin 4, exec (.dsSelect (some d.val)) s = .next { s with sel := some d, ret := some .done }) ∧
    exec (.dsSelect none) s = .next { s with sel := none, ret := some .done } ∧
    (∀ idx : Nat, 4 ≤ idx → exec (.dsSelect (some idx)) s = .refused (.illTyped .driveIndex)) ∧
    (s.head = Vector.replicate 4 false →
      ∃ t u, exec (.dsSelect (some 2)) s = .next t ∧ exec .exStat t = .next u ∧
        u.cmd.toList = fcEncode tagStat 0x0002 0x0000)

/-- 43_drive_state.md R118: one head bit takes the value; the other three, `SEL` and every other register are unchanged,
whichever drive is selected; an index of 4 or more is refused (the spec's decision D35); and the example. -/
def Obligations.DsHeadSetsOneBit : Prop :=
  ∀ s : State, s.phase = .idle →
    (∀ (d : Fin 4) (v : Bool), ∃ head : Vector Bool 4,
      exec (.dsHead d.val v) s = .next { s with head := head, ret := some .done } ∧
      head[d] = v ∧ ∀ e : Fin 4, e ≠ d → head[e] = s.head[e]) ∧
    (∀ (idx : Nat) (v : Bool), 4 ≤ idx → exec (.dsHead idx v) s = .refused (.illTyped .driveIndex)) ∧
    (s.head = #v[false, false, false, false] →
      exec (.dsHead 2 true) s = .next { s with head := #v[false, false, true, false], ret := some .done })

/-- 43_drive_state.md R119, whole: the bitmap, its bound, no side effect, and the example with the high byte of the STAT
request. -/
def Obligations.DsHeadmapReportsHeads : Prop :=
  ∀ s : State, s.phase = .idle →
    (∃ w : Word, exec .dsHeadmap s = .next { s with ret := some (.word w) } ∧
      (∀ d : Fin 4, w.getLsbD d.val = s.head[d]) ∧ (∀ j : Nat, 4 ≤ j → w.getLsbD j = false) ∧ w.toNat ≤ 0x000F) ∧
    (s.head = #v[false, false, true, false] →
      exec .dsHeadmap s = .next { s with ret := some (.word 0x0004) } ∧
      (statParam1 s.sel s.head).extractLsb' 8 8 = 0x04#8)

/-- 43_drive_state.md R120, 10_state.md R36 and 42_session.md R115 (the spec's decision D10): a step that changes `HEAD`
or `SEL` is one in `IDLE` that runs `DS_HEAD` or `DS_SELECT`. No step of an exchange changes either. -/
def Obligations.OnlyDriveOpsWriteDriveState : Prop :=
  ∀ s t : State, step s = .next t →
    (t.head ≠ s.head →
      s.phase = .idle ∧ ∃ msg rest idx v, s.pending = msg :: rest ∧ decode .host msg = .ok (.dsHead idx v)) ∧
    (t.sel ≠ s.sel →
      s.phase = .idle ∧ ∃ msg rest idx, s.pending = msg :: rest ∧ decode .host msg = .ok (.dsSelect idx))

/-! ## Accepting an exchange -/

/-- 30_encoding.md R69 (the spec's decisions D9 and D12): the STAT request word is built from zero; its low byte is the
selected drive or the OPEN parameter, bit `8 + d` is `HEAD[d]`, and bits 15 to 12 are zero. -/
def Obligations.StatRequestWord : Prop :=
  ∀ (sel : Option (Fin 4)) (head : Vector Bool 4),
    (statParam1 sel head).extractLsb' 0 8 = (match sel with
      | some d => BitVec.ofNat 8 d.val
      | none => Config.noneSelByte) ∧
    (∀ d : Fin 4, (statParam1 sel head).getLsbD (8 + d.val) = head[d]) ∧
    (statParam1 sel head).extractLsb' 12 4 = 0#4

/-- 42_session.md R101 (with D9 and D12): `EX_STAT` is accepted whatever `SEL` holds; `CMD` is the STAT request, and
nothing but `KIND`, `CMD` and `phase` changes. -/
def Obligations.ExStatAccepts : Prop :=
  ∀ s : State, s.phase = .idle →
    ∃ cmd : Buffer 10,
      exec .exStat s = .next { s with kind := .stat, cmd := cmd, phase := .sendCmd } ∧
      cmd.toList = fcEncode tagStat ((selByte s.sel).setWidth 16 ||| (headmap s.head <<< 8)) 0x0000

/-- 42_session.md R102, 30_encoding.md R70 and 00_scope.md R9 (with D13): the two track lengths and their `param2` words;
without a drive, `InvalidDrive` and no channel transaction; with one, any 12-bit track is accepted, also one the geometry
does not have. -/
def Obligations.ExReadAccepts : Prop :=
  Geometry.eightInch.trackLen = 4384 ∧ Geometry.mini.trackLen = 2192 ∧
  lenWord .eightInch = 0x1120 ∧ lenWord .mini = 0x0890 ∧ (∀ s : State, s.L = s.len.trackLen) ∧
  ∀ (s : State) (track : Nat) (g : Geometry), s.phase = .idle → track < 4096 →
    (s.sel = none → exec (.exRead track g) s = .next { s with out := .invalidDrive, phase := .done }) ∧
    (∀ d : Fin 4, s.sel = some d →
      ∃ cmd : Buffer 10,
        exec (.exRead track g) s = .next { s with kind := .read, len := g, cmd := cmd, phase := .sendCmd } ∧
        cmd.toList = fcEncode tagRead (BitVec.ofNat 16 (track + 4096 * d.val)) (BitVec.ofNat 16 g.trackLen))

/-- 42_session.md R103, 30_encoding.md R70, 20_memory.md R62 and 00_scope.md R9 (with D31): the two track lengths and their
`param2` words; without a drive, `InvalidDrive`, no transaction and `TB` not written; with one, the payload stands in
`TB[0..L-1]` and every other byte of `TB` is unchanged. -/
def Obligations.ExWritAccepts : Prop :=
  Geometry.eightInch.trackLen = 4384 ∧ Geometry.mini.trackLen = 2192 ∧
  lenWord .eightInch = 0x1120 ∧ lenWord .mini = 0x0890 ∧ (∀ s : State, s.L = s.len.trackLen) ∧
  ∀ (s : State) (track : Nat) (g : Geometry) (data : List Byte), s.phase = .idle → track < 4096 →
    data.length = g.trackLen →
    (s.sel = none → exec (.exWrit track g data) s = .next { s with out := .invalidDrive, phase := .done }) ∧
    (∀ d : Fin 4, s.sel = some d →
      ∃ (cmd : Buffer 10) (tb : Buffer 4386),
        exec (.exWrit track g data) s =
          .next { s with kind := .writ, len := g, tb := tb, cmd := cmd, phase := .sendCmd } ∧
        cmd.toList = fcEncode tagWrit (BitVec.ofNat 16 (track + 4096 * d.val)) (BitVec.ofNat 16 g.trackLen) ∧
        memRead tb 0 g.trackLen = data ∧
        ∀ (j : Nat) (hj : j < 4386), g.trackLen ≤ j → tb[j] = s.tb[j])

/-- 30_encoding.md R77 (the spec's decisions D14, D30, D32, and D35 for `DS_HEAD`): what is outside its type is refused,
and a geometry code other than 0 or 1 does not decode. A refusal is no next state. The bytes of a message, and so the two
messages with a geometry code and the refusal of a message that does not decode, are the model's choice (assumption 4). -/
def Obligations.IllTypedArgumentsRefused : Prop :=
  ∀ s : State, s.phase = .idle →
    (∀ (track : Nat) (g : Geometry), 4096 ≤ track → exec (.exRead track g) s = .refused (.illTyped .trackNumber)) ∧
    (∀ (track : Nat) (g : Geometry) (data : List Byte), 4096 ≤ track →
      exec (.exWrit track g data) s = .refused (.illTyped .trackNumber)) ∧
    (∀ (track : Nat) (g : Geometry) (data : List Byte), track < 4096 → data.length ≠ g.trackLen →
      exec (.exWrit track g data) s = .refused (.illTyped .dataLength)) ∧
    (∀ idx : Nat, 4 ≤ idx → exec (.dsSelect (some idx)) s = .refused (.illTyped .driveIndex)) ∧
    (∀ (idx : Nat) (v : Bool), 4 ≤ idx → exec (.dsHead idx v) s = .refused (.illTyped .driveIndex)) ∧
    (∀ (tag : List Byte) (p1 p2 : Word), tag.length ≠ 4 →
      exec (.fcEncode tag p1 p2) s = .refused (.illTyped .tagLength)) ∧
    (∀ f : List Byte, f.length ≠ 10 → exec (.fcDecode f) s = .refused (.illTyped .frameLength)) ∧
    (∀ (t0 t1 code : Byte) (data : List Byte), 2 ≤ code.toNat →
      decode .host [0x02, t0, t1, code] = .error (.badGeometry code) ∧
      decode .host (0x03 :: t0 :: t1 :: code :: data) = .error (.badGeometry code)) ∧
    (∀ (msg : List Byte) (rest : List (List Byte)) (e : DecodeError), s.pending = msg :: rest →
      decode .host msg = .error e → step s = .refused (.undecodable e))

/-- 42_session.md R100 (with D22): while an exchange is in flight no host operation runs, and no step takes one of the
Host's operations or returns a result but the one that ends the exchange. -/
def Obligations.HostWaitsForExchange : Prop :=
  ∀ s : State, s.phase ≠ .idle →
    (∀ i : Instr, i.port = .host → exec i s = .refused .hostBlocked) ∧
    (∀ t : State, step s = .next t → t.pending = s.pending ∧ (t.ret ≠ s.ret → s.phase = .done ∧ t.phase = .idle))

/-! ## The wire frames as instructions -/

/-- 42_session.md R104 (with D8 and D34) as the meaning of the three request frames, in `SEND_CMD`: the frame is offered
in one write; if all ten bytes are written the first wait begins, and if not the exchange ends with `IoError`. In every
other phase no request is sent. -/
def Obligations.RequestFramesAreSent : Prop :=
  ∀ (i : Instr) (s : State), i.port = .request →
    (s.phase = .sendCmd → (s.chan.write (encode i)).1 = .written 10 →
      exec i s = .next { s with
        chan := (s.chan.write (encode i)).2, fn := 0, tn := 0,
        phase := if s.kind = .read then .awaitPayload else .awaitFrame }) ∧
    (s.phase = .sendCmd → (s.chan.write (encode i)).1 ≠ .written 10 →
      exec i s = .next { s with chan := (s.chan.write (encode i)).2, out := .ioError, phase := .done }) ∧
    (s.phase ≠ .sendCmd → exec i s = .refused .notSending)

/-- The arbiter's table of 42_session.md R106 (R107, R108, R109) as the meaning of the three response frames, in each of
the three waits; in every other phase a response frame has no meaning (30_encoding.md R68). -/
def Obligations.ResponseFramesAreJudged : Prop :=
  ∀ (s : State) (rcode rdata : Word),
    (s.phase = .awaitFrame → s.kind = .stat →
      exec (.rspStat rcode rdata) s = .next { s with out := .statOk rdata, phase := .done } ∧
      exec (.rspWrit rcode rdata) s = .next { s with out := .tagMismatch tagStat tagWrit, phase := .done } ∧
      exec (.rspWsta rcode rdata) s = .next { s with out := .tagMismatch tagStat tagWsta, phase := .done }) ∧
    (s.phase = .awaitFrame → s.kind = .writ →
      exec (.rspStat rcode rdata) s = .next { s with out := .tagMismatch tagWrit tagStat, phase := .done } ∧
      (rcode = 0 → exec (.rspWrit rcode rdata) s = .next { s with phase := .readyToSend }) ∧
      (rcode ≠ 0 → exec (.rspWrit rcode rdata) s = .next { s with out := .remoteRefusal .ack rcode, phase := .done }) ∧
      exec (.rspWsta rcode rdata) s = .next { s with out := .tagMismatch tagWrit tagWsta, phase := .done }) ∧
    (s.phase = .awaitWsta →
      exec (.rspStat rcode rdata) s = .next { s with out := .tagMismatch tagWsta tagStat, phase := .done } ∧
      exec (.rspWrit rcode rdata) s = .next { s with out := .tagMismatch tagWsta tagWrit, phase := .done } ∧
      (rcode = 0 → exec (.rspWsta rcode rdata) s = .next { s with out := .writOk, phase := .done }) ∧
      (rcode ≠ 0 → exec (.rspWsta rcode rdata) s = .next { s with out := .remoteRefusal .final rcode, phase := .done })) ∧
    (s.phase ≠ .awaitFrame → s.phase ≠ .awaitWsta →
      exec (.rspStat rcode rdata) s = .refused .notAwaitingFrame ∧
      exec (.rspWrit rcode rdata) s = .refused .notAwaitingFrame ∧
      exec (.rspWsta rcode rdata) s = .refused .notAwaitingFrame)

/-! ## A step runs the decoded instruction -/

/-- 42_session.md R100: in `IDLE` a step takes the Host's next message and runs the operation it decodes to; with no
message pending it changes nothing (assumption 7). -/
def Obligations.StepRunsHostOperation : Prop :=
  ∀ s : State, s.phase = .idle →
    (∀ (msg : List Byte) (rest : List (List Byte)) (i : Instr), s.pending = msg :: rest → decode .host msg = .ok i →
      step s = exec i { s with pending := rest }) ∧
    (s.pending = [] → step s = .next s)

/-- 42_session.md R104: in `SEND_CMD` a step runs the request frame that `CMD` holds. -/
def Obligations.StepRunsRequestFrame : Prop :=
  ∀ (s : State) (i : Instr), s.phase = .sendCmd → decode .request s.cmd.toList = .ok i → step s = exec i s

/-- 42_session.md R105, R106: in a frame wait, a step whose read completes `FB` runs the response frame it then holds. -/
def Obligations.StepRunsResponseFrame : Prop :=
  ∀ (s : State) (v : List Byte) (c : Channel) (i : Instr),
    s.phase = .awaitFrame ∨ s.phase = .awaitWsta →
    s.chan.read (10 - s.fn) .frame = (.bytes v, c) → v ≠ [] → s.fn + v.length = 10 →
    decode .response (memRead s.fb 0 s.fn ++ v) = .ok i →
    step s = exec i { s with chan := c, fb := memWrite s.fb s.fn v, fn := 10 }

/-! ## The engine's steps -/

/-- 42_session.md R104 (with D8 and D34) for every content of `CMD`: the step in `SEND_CMD` offers the ten bytes of `CMD`
in one write. -/
def Obligations.SendCmdStepWritesCommand : Prop :=
  ∀ s : State, s.phase = .sendCmd →
    ((s.chan.write s.cmd.toList).1 = .written 10 →
      step s = .next { s with
        chan := (s.chan.write s.cmd.toList).2, fn := 0, tn := 0,
        phase := if s.kind = .read then .awaitPayload else .awaitFrame }) ∧
    ((s.chan.write s.cmd.toList).1 ≠ .written 10 →
      step s = .next { s with chan := (s.chan.write s.cmd.toList).2, out := .ioError, phase := .done })

/-- 42_session.md R105 (with D5 and C2): a frame read attempt asks for the bytes still missing; an error ends the
exchange with `IoError`, no bytes end it with `Timeout`, and bytes that do not fill `FB` are collected. -/
def Obligations.FrameReadAttempt : Prop :=
  ∀ (s : State) (c : Channel), s.phase = .awaitFrame ∨ s.phase = .awaitWsta →
    (s.chan.read (10 - s.fn) .frame = (.ioError, c) →
      step s = .next { s with chan := c, out := .ioError, phase := .done }) ∧
    (s.chan.read (10 - s.fn) .frame = (.bytes [], c) →
      step s = .next { s with chan := c, out := .timeout, phase := .done }) ∧
    (∀ v : List Byte, s.chan.read (10 - s.fn) .frame = (.bytes v, c) → v ≠ [] → s.fn + v.length < 10 →
      ∃ fb : Buffer 10, step s = .next { s with chan := c, fb := fb, fn := s.fn + v.length } ∧
        memRead fb 0 (s.fn + v.length) = memRead s.fb 0 s.fn ++ v ∧
        ∀ (j : Nat) (hj : j < 10), s.fn + v.length ≤ j → fb[j] = s.fb[j])

/-- 42_session.md R110 and 40_frame_codec.md R91 (with D6 and D7): a complete invalid frame is dropped whole. Nothing is
written to the channel, no field of the frame reaches any other register, and the wait goes on with `FN = 0`. -/
def Obligations.InvalidFrameIsIgnored : Prop :=
  ∀ (s : State) (v : List Byte) (c : Channel),
    s.phase = .awaitFrame ∨ s.phase = .awaitWsta →
    s.chan.read (10 - s.fn) .frame = (.bytes v, c) → v ≠ [] → s.fn + v.length = 10 →
    fcDecode (memRead s.fb 0 s.fn ++ v) = .checksumInvalid →
    step s = .next { s with chan := c, fb := memWrite s.fb s.fn v, fn := 0 } ∧
    c.log = s.chan.log ++ [.read (10 - s.fn) .frame (.bytes v)]

/-- 42_session.md R107 (with D15): the arbitration of a valid frame of any tag in the STAT wait. `rcode` is not read. -/
def Obligations.StatWaitArbitration : Prop :=
  ∀ (s : State) (v : List Byte) (c : Channel) (tag : Tag) (rcode rdata : Word),
    s.phase = .awaitFrame → s.kind = .stat →
    s.chan.read (10 - s.fn) .frame = (.bytes v, c) → v ≠ [] → s.fn + v.length = 10 →
    fcDecode (memRead s.fb 0 s.fn ++ v) = .ok tag rcode rdata →
    step s = .next { s with
      chan := c, fb := memWrite s.fb s.fn v, fn := 10, phase := .done,
      out := if tag = tagStat then .statOk rdata else .tagMismatch tagStat tag }

/-- 42_session.md R108, whole: the arbitration of a valid frame of any tag in the WRIT acknowledgement wait, the tag
before `rcode`; after a refusal the exchange is over and the step has written nothing to the channel. -/
def Obligations.WritAckArbitration : Prop :=
  ∀ (s : State) (v : List Byte) (c : Channel) (tag : Tag) (rcode rdata : Word),
    s.phase = .awaitFrame → s.kind = .writ →
    s.chan.read (10 - s.fn) .frame = (.bytes v, c) → v ≠ [] → s.fn + v.length = 10 →
    fcDecode (memRead s.fb 0 s.fn ++ v) = .ok tag rcode rdata →
    (tag ≠ tagWrit → step s = .next { s with
      chan := c, fb := memWrite s.fb s.fn v, fn := 10, phase := .done, out := .tagMismatch tagWrit tag }) ∧
    (tag = tagWrit → rcode ≠ 0x0000 → step s = .next { s with
      chan := c, fb := memWrite s.fb s.fn v, fn := 10, phase := .done, out := .remoteRefusal .ack rcode }) ∧
    (tag = tagWrit → rcode = 0x0000 → step s = .next { s with
      chan := c, fb := memWrite s.fb s.fn v, fn := 10, phase := .readyToSend }) ∧
    c.log = s.chan.log ++ [.read (10 - s.fn) .frame (.bytes v)]

/-- 42_session.md R109 (with D18): the arbitration of a valid frame of any tag in the WSTA wait. -/
def Obligations.WstaWaitArbitration : Prop :=
  ∀ (s : State) (v : List Byte) (c : Channel) (tag : Tag) (rcode rdata : Word),
    s.phase = .awaitWsta →
    s.chan.read (10 - s.fn) .frame = (.bytes v, c) → v ≠ [] → s.fn + v.length = 10 →
    fcDecode (memRead s.fb 0 s.fn ++ v) = .ok tag rcode rdata →
    step s = .next { s with
      chan := c, fb := memWrite s.fb s.fn v, fn := 10, phase := .done,
      out := if tag ≠ tagWsta then .tagMismatch tagWsta tag
        else if rcode = 0x0000 then .writOk else .remoteRefusal .final rcode }

/-- 42_session.md R111 and R114 (with D5 and D17): a payload read attempt asks for the bytes still missing; an error
ends READ with `IoError`, no bytes end it with the exact count so far, and bytes that do not complete the payload are
collected. -/
def Obligations.PayloadReadAttempt : Prop :=
  ∀ (s : State) (c : Channel), s.phase = .awaitPayload →
    (s.chan.read (s.L + 2 - s.tn) .chunk = (.ioError, c) →
      step s = .next { s with chan := c, out := .ioError, phase := .done }) ∧
    (s.chan.read (s.L + 2 - s.tn) .chunk = (.bytes [], c) →
      step s = .next { s with chan := c, out := .partialData s.tn, phase := .done }) ∧
    (∀ v : List Byte, s.chan.read (s.L + 2 - s.tn) .chunk = (.bytes v, c) → v ≠ [] → s.tn + v.length < s.L + 2 →
      ∃ tb : Buffer 4386, step s = .next { s with chan := c, tb := tb, tn := s.tn + v.length } ∧
        memRead tb 0 (s.tn + v.length) = memRead s.tb 0 s.tn ++ v ∧
        ∀ (j : Nat) (hj : j < 4386), s.tn + v.length ≤ j → tb[j] = s.tb[j])

/-- 42_session.md R112 (with D16 and D33): the last bytes of a payload are validated in the same step; the count covers
the checksum, and only a valid payload is delivered. -/
def Obligations.CompletePayloadIsValidated : Prop :=
  ∀ (s : State) (v : List Byte) (c : Channel), s.phase = .awaitPayload →
    s.chan.read (s.L + 2 - s.tn) .chunk = (.bytes v, c) → v ≠ [] → s.tn + v.length = s.L + 2 →
    ∃ tb : Buffer 4386,
      memRead tb 0 (s.L + 2) = memRead s.tb 0 s.tn ++ v ∧
      (∀ (j : Nat) (hj : j < 4386), s.L + 2 ≤ j → tb[j] = s.tb[j]) ∧
      (∀ p : List Byte, memRead s.tb 0 s.tn ++ v = tcAppend p →
        step s = .next { s with
          chan := c, tb := tb, tn := s.L + 2, phase := .done, out := .readOk (s.L + 2) p }) ∧
      ((∀ p : List Byte, memRead s.tb 0 s.tn ++ v ≠ tcAppend p) →
        step s = .next { s with
          chan := c, tb := tb, tn := s.L + 2, phase := .done, out := .readChecksumInvalid (s.L + 2) })

/-- 42_session.md R113 and 30_encoding.md R72 (with D8 and D34): the payload and its checksum are offered in one write of
`L + 2` bytes; only `TB[L]` and `TB[L+1]` change. -/
def Obligations.PayloadIsSentWithChecksum : Prop :=
  ∀ s : State, s.phase = .readyToSend →
    ∃ tb : Buffer 4386,
      memRead tb 0 (s.L + 2) = tcAppend (memRead s.tb 0 s.L) ∧
      (∀ (j : Nat) (hj : j < 4386), j < s.L ∨ s.L + 2 ≤ j → tb[j] = s.tb[j]) ∧
      ((s.chan.write (tcAppend (memRead s.tb 0 s.L))).1 = .written (s.L + 2) →
        step s = .next { s with
          chan := (s.chan.write (tcAppend (memRead s.tb 0 s.L))).2, tb := tb, fn := 0, phase := .awaitWsta }) ∧
      ((s.chan.write (tcAppend (memRead s.tb 0 s.L))).1 ≠ .written (s.L + 2) →
        step s = .next { s with
          chan := (s.chan.write (tcAppend (memRead s.tb 0 s.L))).2, tb := tb, out := .ioError, phase := .done })

/-- 42_session.md R116, 60_exceptions.md R133: in `DONE` the Host gets `OUT` and the engine goes idle; nothing else
changes. -/
def Obligations.DoneReturnsOutcome : Prop :=
  ∀ s : State, s.phase = .done → step s = .next { s with ret := some (.outcome s.out), phase := .idle }

/-! ## Outcomes -/

/-- 30_encoding.md R73: the names of the response codes and their outcome classes. In the two waits that read a code
(42_session.md R108, R109), `0x0000` is success (the acknowledgement lets the WRIT go on, the final code ends it in
`WritOk`), and every other code ends the exchange in a refusal that keeps the code verbatim and carries its class
(60_exceptions.md R126). That a refusal names its phase, ACK or FINAL, is the spec's decision D36 (assumption 16). -/
def Obligations.ResponseCodesClassified : Prop :=
  classify 0x0000 = .ok ∧ classify 0x0001 = .notReady ∧ classify 0x0002 = .checksumError ∧
  classify 0x0003 = .writeError ∧ (∀ c : Word, 0x0004 ≤ c.toNat → classify c = .unknown) ∧
  (∀ (p : RefusalPhase) (c : Word), (ExOutcome.remoteRefusal p c).refusalClass = some (classify c) ∧
    (ExOutcome.remoteRefusal p c).isSuccess = false) ∧
  ackVerdict tagWrit 0x0000 = none ∧ finalVerdict tagWsta 0x0000 = .writOk ∧ ExOutcome.writOk.isSuccess = true ∧
  (∀ c : Word, c ≠ 0x0000 →
    ackVerdict tagWrit c = some (.remoteRefusal .ack c) ∧ finalVerdict tagWsta c = .remoteRefusal .final c) ∧
  (∀ c : Word, (finalVerdict tagWsta c).isSuccess = true ↔ classify c = .ok)

/-- 60_exceptions.md R126 (the numbers are the spec's decision D23): the codes and classes of the outcomes. -/
def Obligations.OutcomeCodes : Prop :=
  (∀ w, (ExOutcome.statOk w).code = 0x00) ∧ (∀ n d, (ExOutcome.readOk n d).code = 0x01) ∧
  ExOutcome.writOk.code = 0x02 ∧ ExOutcome.invalidDrive.code = 0x10 ∧ ExOutcome.ioError.code = 0x11 ∧
  ExOutcome.timeout.code = 0x12 ∧ (∀ a b, (ExOutcome.tagMismatch a b).code = 0x13) ∧
  (∀ p c, (ExOutcome.remoteRefusal p c).code = 0x14) ∧ (∀ n, (ExOutcome.readChecksumInvalid n).code = 0x15) ∧
  (∀ n, (ExOutcome.partialData n).code = 0x16) ∧ ExOutcome.noOutcome.code = 0xFF ∧
  (∀ o : ExOutcome, o.isSuccess = true ↔ o.code.toNat < 0x10)

/-- 60_exceptions.md R132 and 42_session.md R116: `OUT` changes only in a step that ends an exchange, and such a step
changes neither the Drive State nor `KIND`, `CMD`, `L`, nor what the Host has been given; `OUT` keeps its value in every
other step. -/
def Obligations.OutChangesOnlyAtTheEnd : Prop :=
  ∀ s t : State, step s = .next t → t.out ≠ s.out →
    t.phase = .done ∧ t.head = s.head ∧ t.sel = s.sel ∧ t.kind = s.kind ∧ t.cmd = s.cmd ∧ t.len = s.len ∧ t.ret = s.ret

/-- 42_session.md R124: the transitions of `phase`. An exchange is left through `DONE` only, and `DONE` only to
`IDLE`. -/
def Obligations.PhaseTransitions : Prop :=
  ∀ s t : State, step s = .next t →
    match s.phase with
    | .idle => t.phase = .idle ∨ t.phase = .sendCmd ∨ t.phase = .done
    | .sendCmd => t.phase = firstWait s.kind ∨ t.phase = .done
    | .awaitFrame => t.phase = .awaitFrame ∨ (s.kind = .writ ∧ t.phase = .readyToSend) ∨ t.phase = .done
    | .awaitPayload => t.phase = .awaitPayload ∨ t.phase = .done
    | .readyToSend => t.phase = .awaitWsta ∨ t.phase = .done
    | .awaitWsta => t.phase = .awaitWsta ∨ t.phase = .done
    | .done => t.phase = .idle

/-! ## Rules of the whole machine -/

/-- 20_memory.md R51 and R57, 42_session.md R121, 60_exceptions.md R134: a step makes at most one channel transaction,
and its phase says which: the ten bytes of `CMD`, the payload with its checksum, or a read of exactly the bytes still
missing under the label of the wait. In `IDLE` and `DONE` there is none. So nothing is ever sent twice. -/
def Obligations.OneTransactionPerStep : Prop :=
  ∀ s t : State, step s = .next t →
    match s.phase with
    | .idle => t.chan = s.chan
    | .sendCmd => ∃ a, t.chan.log = s.chan.log ++ [.write s.cmd.toList a]
    | .awaitFrame => ∃ a, t.chan.log = s.chan.log ++ [.read (10 - s.fn) .frame a]
    | .awaitPayload => ∃ a, t.chan.log = s.chan.log ++ [.read (s.L + 2 - s.tn) .chunk a]
    | .readyToSend => ∃ a, t.chan.log = s.chan.log ++ [.write (tcAppend (memRead s.tb 0 s.L)) a]
    | .awaitWsta => ∃ a, t.chan.log = s.chan.log ++ [.read (10 - s.fn) .frame a]
    | .done => t.chan = s.chan

/-- 42_session.md R108 and R121: the payload of a WRIT can be sent only after a valid frame tagged `WRIT` with `rcode`
zero has been completed in the acknowledgement wait. -/
def Obligations.PayloadOnlyAfterOkAck : Prop :=
  ∀ s t : State, step s = .next t → t.phase = .readyToSend →
    s.phase = .awaitFrame ∧ s.kind = .writ ∧ ∃ rdata : Word, fcDecode t.fb.toList = .ok tagWrit 0x0000 rdata

/-- 70_reset_and_hazards.md R150: what reset leaves. The source gives no reset value; these are the spec's own choice
(92_eei_decisions.md D11). The registers R150 leaves unspecified are not in the statement. -/
def Obligations.ResetRegisters : Prop :=
  State.reset.head = #v[false, false, false, false] ∧ State.reset.sel = none ∧ State.reset.phase = .idle ∧
  State.reset.out = .noOutcome

/-- The invariant holds after reset. -/
def Obligations.ResetMeetsInvariant : Prop := State.reset.Inv

/-- 10_state.md R25, R28, R29, R31, 60_exceptions.md R126, 42_session.md R105, R111 and R124: every step keeps the
invariant, from every state that has it. -/
def Obligations.StepKeepsInvariant : Prop :=
  ∀ s t : State, s.Inv → step s = .next t → t.Inv

/-- 42_session.md R106, R112 and R151: under the invariant no step faults, the cases that the rules call impossible are
not reached, and a step is refused in `IDLE` only; so an exchange in flight always has a next step. -/
def Obligations.ExchangeAlwaysHasANextStep : Prop :=
  ∀ s : State, s.Inv → StepResult.isSafe (step s) = true ∧ (s.phase ≠ .idle → ∃ t, step s = .next t)

/-- 42_session.md R123: READ always ends, after at most `L + 3` steps from the command write on, each one transaction. -/
def Obligations.ReadAlwaysEnds : Prop :=
  ∀ s : State, s.phase = .sendCmd → s.kind = .read →
    ∃ k ≤ s.L + 3, ∃ t, Host.Core.run core k s = .next t ∧ t.phase = .done ∧
      t.chan.log.length = s.chan.log.length + k

/-- 70_reset_and_hazards.md R159 and 95_test_vectors.md P11: a Channel that delivers invalid groups of ten bytes keeps a
frame wait going for as long as it delivers them. -/
def Obligations.FrameWaitCanHang : Prop :=
  ∀ (n : Nat) (s : State) (f : List Byte) (rest : List ReadAnswer),
    s.phase = .awaitFrame ∨ s.phase = .awaitWsta → s.fn = 0 → f.length = 10 → frameValid f = false →
    s.chan.inbound = List.replicate n (.bytes f) ++ rest →
    ∃ t, Host.Core.run core n s = .next t ∧ t.phase = s.phase ∧ t.fn = 0 ∧ t.out = s.out ∧
      t.chan.inbound = rest ∧ t.chan.log.length = s.chan.log.length + n

/-- 70_reset_and_hazards.md R151: no step reads a register that is dead in its phase. States that differ only in dead
registers step alike, so the reset values of assumption 1 and all that an earlier exchange left behind cannot be
observed. -/
def Obligations.DeadRegistersUnobservable : Prop :=
  ∀ s t : State, SameLive s t → sameResult (step s) (step t)

/-- 42_session.md R125 for STAT: the big-step form gives an outcome and a channel exactly when the small steps end
with them. The bound on the read attempts (`fuel`, any) is the model's choice (assumption 24). -/
def Obligations.BigStepStatAgrees : Prop :=
  ∀ (s : State) (o : ExOutcome) (c : Channel), s.phase = .idle → s.pending = [] →
    ((∃ fuel, bigStat fuel s = some (o, c)) ↔
      ∃ t k u, exec .exStat s = .next t ∧ Host.Core.run core k t = .next u ∧
        u.phase = .done ∧ u.out = o ∧ u.chan = c)

/-- 42_session.md R125 for READ. The bound on the read attempts inside `bigRead`, `L + 2`, is the model's choice
(assumption 24); 42_session.md R123 says that it is enough. -/
def Obligations.BigStepReadAgrees : Prop :=
  ∀ (s : State) (track : BitVec 12) (g : Geometry) (o : ExOutcome) (c : Channel), s.phase = .idle → s.pending = [] →
    (bigRead track g s = some (o, c) ↔
      ∃ t k u, exec (.exRead track.toNat g) s = .next t ∧ Host.Core.run core k t = .next u ∧
        u.phase = .done ∧ u.out = o ∧ u.chan = c)

/-- 42_session.md R125 for WRIT. The bound on the read attempts (`fuel`, any) is the model's choice
(assumption 24). -/
def Obligations.BigStepWritAgrees : Prop :=
  ∀ (s : State) (track : BitVec 12) (g : Geometry) (data : List Byte) (o : ExOutcome) (c : Channel),
    s.phase = .idle → s.pending = [] → data.length = g.trackLen →
    ((∃ fuel, bigWrit fuel track g data s = some (o, c)) ↔
      ∃ t k u, exec (.exWrit track.toNat g data) s = .next t ∧ Host.Core.run core k t = .next u ∧
        u.phase = .done ∧ u.out = o ∧ u.chan = c)
end

