-- ==== Sys2Proof/Laws/Buffer.lean ====
section
/-!
SUPPORT. What `MemRead` and `MemWrite` do (00_scope.md R13): a written range reads back, and every other byte is left
alone.
-/
namespace Sys2Proof.Machine

variable {size : Nat} (b : Buffer size)

theorem memWrite_toList (i : Nat) (v : List Byte) :
    (memWrite b i v).toList = (b.toList.take i ++ v ++ b.toList.drop (i + v.length)).take size := rfl

/-- Inside the range, the byte written. -/
theorem memWrite_getElem_in {i j : Nat} {v : List Byte} (hj : j < size) (h1 : i ≤ j) (h2 : j < i + v.length) :
    (memWrite b i v)[j] = v[j - i] := by
  rw [← Vector.getElem_toList (by simpa using hj)]
  simp only [memWrite_toList, List.getElem_take, List.append_assoc]
  rw [List.getElem_append_right (by simp; omega), List.getElem_append_left (by simp; omega)]
  congr 1
  simp
  omega

/-- Outside the range, the byte that stood there. -/
theorem memWrite_getElem_out {i j : Nat} {v : List Byte} (hj : j < size) (h : j < i ∨ i + v.length ≤ j) :
    (memWrite b i v)[j] = b[j] := by
  rw [← Vector.getElem_toList (by simpa using hj), ← Vector.getElem_toList (xs := b) (by simpa using hj)]
  simp only [memWrite_toList, List.getElem_take, List.append_assoc]
  rcases h with h | h
  · rw [List.getElem_append_left (by simp; omega), List.getElem_take]
  · rw [List.getElem_append_right (by simp; omega), List.getElem_append_right (by simp; omega), List.getElem_drop]
    congr 1
    simp
    omega

@[simp] theorem memRead_length (i n : Nat) : (memRead b i n).length = min n (size - i) := by simp [memRead]

@[simp] theorem memRead_zero (i : Nat) : memRead b i 0 = [] := by simp [memRead]

/-- The whole buffer. -/
theorem memRead_all : memRead b 0 size = b.toList := by simp [memRead]

/-- A sequence as long as the buffer replaces it. -/
@[simp] theorem memWrite_whole {v : List Byte} (h : v.length = size) : (memWrite b 0 v).toList = v := by
  simp [memWrite_toList, h]

/-- What stood before the range, then the range. -/
theorem memRead_memWrite_prefix {i : Nat} {v : List Byte} (h : i + v.length ≤ size) :
    memRead (memWrite b i v) 0 (i + v.length) = memRead b 0 i ++ v := by
  simp only [memRead, List.drop_zero, memWrite_toList, List.append_assoc, List.take_take]
  rw [Nat.min_eq_left h, ← List.append_assoc, List.take_append_of_le_length (by simp; omega)]
  rw [List.take_of_length_le (by simp)]

/-- A range written at the front reads back. -/
theorem memRead_memWrite_front {v : List Byte} (h : v.length ≤ size) : memRead (memWrite b 0 v) 0 v.length = v := by
  simpa using memRead_memWrite_prefix b (i := 0) (v := v) (by omega)

/-- What stands before the range is left alone. -/
theorem memRead_memWrite_before {i n : Nat} {v : List Byte} (hn : n ≤ i) (hi : i ≤ size) :
    memRead (memWrite b i v) 0 n = memRead b 0 n := by
  simp only [memRead, List.drop_zero, memWrite_toList, List.append_assoc, List.take_take]
  rw [Nat.min_eq_left (by omega), List.take_append_of_le_length (by simp; omega), List.take_take, Nat.min_eq_left hn]

/-- Buffers with the same bytes are the same. -/
theorem buffer_ext {b c : Buffer size} (h : b.toList = c.toList) : b = c := Vector.toList_inj.mp h

/-- A whole write forgets what stood in the buffer. -/
theorem memWrite_whole_eq (b c : Buffer size) {v : List Byte} (h : v.length = size) : memWrite b 0 v = memWrite c 0 v :=
  buffer_ext (by rw [memWrite_whole b h, memWrite_whole c h])

end Sys2Proof.Machine
end

