-- ==== Sys2Proof/Laws/Bytes.lean ====
section
/-!
SUPPORT. The small lemmas of the byte helpers (00_scope.md R12) and of the two codecs' functions.
-/
namespace Sys2Proof.Machine

@[simp] theorem le16_length (w : Word) : (le16 w).length = 2 := rfl

@[simp] theorem tag_bytes_length (t : Tag) : t.bytes.length = 4 := rfl

@[simp] theorem byteSum_nil : byteSum [] = 0 := rfl

@[simp] theorem byteSum_cons (b : Byte) (s : List Byte) : byteSum (b :: s) = b.toNat + byteSum s := by
  simp [byteSum]

@[simp] theorem byteSum_append (s t : List Byte) : byteSum (s ++ t) = byteSum s + byteSum t := by
  simp [byteSum]

@[simp] theorem cksum16_toNat (s : List Byte) : (cksum16 s).toNat = byteSum s % 65536 := by
  simp [cksum16]

/-- Each byte adds at most 255. -/
theorem byteSum_le (s : List Byte) : byteSum s ≤ 255 * s.length := by
  induction s with
  | nil => simp
  | cons b s ih => simp only [byteSum_cons, List.length_cons]; have := b.isLt; omega

/-- The number a word read at the front of a sequence is: the first byte is the low one (R47). -/
theorem rd16_cons_toNat (a b : Byte) (s : List Byte) : (rd16 (a :: b :: s) 0).toNat = a.toNat + 256 * b.toNat := by
  have ha := a.isLt
  have hb := b.isLt
  simp only [rd16, List.getD_cons_zero, List.getD_cons_succ, zero_add, BitVec.toNat_or, BitVec.toNat_shiftLeft,
    BitVec.toNat_setWidth]
  rw [Nat.or_comm, Nat.mod_eq_of_lt (show b.toNat < 2 ^ 16 by omega), Nat.mod_eq_of_lt (show a.toNat < 2 ^ 16 by omega),
    Nat.mod_eq_of_lt (by rw [Nat.shiftLeft_eq]; omega), ← Nat.shiftLeft_add_eq_or_of_lt ha, Nat.shiftLeft_eq]
  omega

/-- A word read at an offset is the word read at the front of what stands there. -/
theorem rd16_drop (s : List Byte) (i : Nat) : rd16 s i = rd16 (s.drop i) 0 := by
  simp [rd16, List.getD_eq_getElem?_getD, List.getElem?_drop]

/-- The two bytes of `LE16` read back as the word (R12, R47). -/
theorem rd16_le16 (w : Word) (s : List Byte) : rd16 (le16 w ++ s) 0 = w := by
  apply BitVec.eq_of_toNat_eq
  have := w.isLt
  simp only [le16, List.cons_append, List.nil_append, rd16_cons_toNat, BitVec.extractLsb'_toNat,
    Nat.shiftRight_eq_div_pow]
  omega

/-- `LE16` of a word read at the front gives its two bytes back. -/
theorem le16_rd16 (a b : Byte) (s : List Byte) : le16 (rd16 (a :: b :: s) 0) = [a, b] := by
  have ha := a.isLt
  have hb := b.isLt
  simp only [le16, List.cons.injEq, and_true]
  constructor <;> apply BitVec.eq_of_toNat_eq <;>
    simp only [BitVec.extractLsb'_toNat, rd16_cons_toNat, Nat.shiftRight_eq_div_pow] <;> omega

/-- `LE16` of the word that reads as the last two bytes of a sequence is those bytes. -/
theorem le16_rd16_last (s : List Byte) (n : Nat) (h : s.length = n + 2) : le16 (rd16 s n) = s.drop n := by
  rw [rd16_drop]
  match hd : s.drop n with
  | [a, b] => exact le16_rd16 a b []
  | [] => have := congrArg List.length hd; simp at this; omega
  | [_] => have := congrArg List.length hd; simp at this; omega
  | _ :: _ :: _ :: _ => have := congrArg List.length hd; simp at this; omega

/-! ### The Frame Codec -/

@[simp] theorem fcHeader_length (t : Tag) (p1 p2 : Word) : (fcHeader t p1 p2).length = 8 := rfl

@[simp] theorem fcEncode_length (t : Tag) (p1 p2 : Word) : (fcEncode t p1 p2).length = 10 := rfl

@[simp] theorem fcEncode_take (t : Tag) (p1 p2 : Word) : (fcEncode t p1 p2).take 8 = fcHeader t p1 p2 := rfl

@[simp] theorem tagOf_fcEncode (t : Tag) (p1 p2 : Word) : tagOf (fcEncode t p1 p2) = t := rfl

@[simp] theorem rd16_fcEncode_four (t : Tag) (p1 p2 : Word) : rd16 (fcEncode t p1 p2) 4 = p1 := by
  rw [rd16_drop]; exact rd16_le16 p1 _

@[simp] theorem rd16_fcEncode_six (t : Tag) (p1 p2 : Word) : rd16 (fcEncode t p1 p2) 6 = p2 := by
  rw [rd16_drop]; exact rd16_le16 p2 _

@[simp] theorem rd16_fcEncode_eight (t : Tag) (p1 p2 : Word) :
    rd16 (fcEncode t p1 p2) 8 = cksum16 (fcHeader t p1 p2) := by
  rw [rd16_drop]; exact rd16_le16 _ []

/-- Ten bytes are the encoding of what `FC_DECODE` reads from them, when it reads anything. -/
theorem fcEncode_of_decode {f : List Byte} {t : Tag} {p1 p2 : Word} (hlen : f.length = 10)
    (h : fcDecode f = .ok t p1 p2) : fcEncode t p1 p2 = f := by
  by_cases hv : frameValid f
  · simp only [fcDecode, hv, if_true, FrameResult.ok.injEq] at h
    obtain ⟨rfl, rfl, rfl⟩ := h
    match f, hlen with
    | [a0, a1, a2, a3, a4, a5, a6, a7, a8, a9], _ =>
      have hck : rd16 [a0, a1, a2, a3, a4, a5, a6, a7, a8, a9] 8 = cksum16 [a0, a1, a2, a3, a4, a5, a6, a7] := by
        simpa [frameValid] using hv
      have h4 : le16 (rd16 [a0, a1, a2, a3, a4, a5, a6, a7, a8, a9] 4) = [a4, a5] := by
        rw [rd16_drop]; exact le16_rd16 _ _ _
      have h6 : le16 (rd16 [a0, a1, a2, a3, a4, a5, a6, a7, a8, a9] 6) = [a6, a7] := by
        rw [rd16_drop]; exact le16_rd16 _ _ _
      have h8 : le16 (rd16 [a0, a1, a2, a3, a4, a5, a6, a7, a8, a9] 8) = [a8, a9] := by
        rw [rd16_drop]; exact le16_rd16 _ _ _
      have hh : fcHeader (tagOf [a0, a1, a2, a3, a4, a5, a6, a7, a8, a9])
          (rd16 [a0, a1, a2, a3, a4, a5, a6, a7, a8, a9] 4) (rd16 [a0, a1, a2, a3, a4, a5, a6, a7, a8, a9] 6) =
          [a0, a1, a2, a3, a4, a5, a6, a7] := by
        simp [fcHeader, h4, h6, tagOf, Tag.bytes]
      simp only [fcEncode, hh, ← hck, h8, List.cons_append, List.nil_append]
  · simp [fcDecode, hv] at h

/-! ### The Track Transfer Codec -/

@[simp] theorem tcAppend_length (p : List Byte) : (tcAppend p).length = p.length + 2 := by simp [tcAppend]

/-- The running sum from any start is the start plus the byte sum. -/
theorem tcChecksum_foldl (p : List Byte) (acc : Word) :
    p.foldl (fun a b => a + b.setWidth 16) acc = acc + cksum16 p := by
  induction p generalizing acc with
  | nil => simp [cksum16]
  | cons b p ih =>
    rw [List.foldl_cons, ih]
    apply BitVec.eq_of_toNat_eq
    have := b.isLt
    simp only [BitVec.toNat_add, BitVec.toNat_setWidth, cksum16_toNat, byteSum_cons]
    omega

end Sys2Proof.Machine
end

