-- ==== Sys2Proof/Laws/Channel.lean ====
section
/-!
SUPPORT. What the channel primitives can do (00_scope.md R14): the answers stay within the contract, every answer within
it can come (R16), and each call is one entry of the log.
-/
namespace Sys2Proof.Machine

variable (c : Channel)

@[simp] theorem Channel.nextWrite_log : c.nextWrite.2.log = c.log := by
  simp only [Channel.nextWrite]; split <;> rfl

@[simp] theorem Channel.nextRead_log : c.nextRead.2.log = c.log := by
  simp only [Channel.nextRead]; split <;> rfl

@[simp] theorem Channel.keep_log (left : List Byte) : (c.keep left).log = c.log := by
  simp only [Channel.keep]; split <;> rfl

/-- One `ChWrite` is one entry of the log, with its answer. -/
@[simp] theorem Channel.write_log (v : List Byte) :
    (c.write v).2.log = c.log ++ [.write v (c.write v).1] := by
  simp [Channel.write, Channel.record]

/-- One `ChRead` is one entry of the log, with its answer. -/
@[simp] theorem Channel.read_log (max : Nat) (t : WaitBound) :
    (c.read max t).2.log = c.log ++ [.read max t (c.read max t).1] := by
  simp only [Channel.read]; split <;> simp [Channel.record]

/-- A count is at most what was offered. -/
theorem Channel.write_le (v : List Byte) {k : Nat} (h : (c.write v).1 = .written k) : k ≤ v.length := by
  simp only [Channel.write, writeWithin] at h
  split at h
  · obtain rfl := by simpa using h
    omega
  · cases h

/-- No more bytes come than were asked for. -/
theorem Channel.read_le (max : Nat) (t : WaitBound) {v : List Byte} (h : (c.read max t).1 = .bytes v) :
    v.length ≤ max := by
  simp only [Channel.read] at h
  split at h
  · cases h
  · obtain rfl := by simpa using h
    simp

/-- A `ChWrite` takes nothing from the inbound stream. -/
@[simp] theorem Channel.write_inbound (v : List Byte) : (c.write v).2.inbound = c.inbound := by
  simp only [Channel.write, Channel.record, Channel.nextWrite]; split <;> rfl

/-- Any write answer within the contract is the one that comes, when it is the one fixed. -/
theorem Channel.write_fixed (v : List Byte) {k : Nat} (hk : k ≤ v.length) {rest : List WriteAnswer}
    (h : c.outbound = .written k :: rest) : (c.write v).1 = .written k := by
  simp [Channel.write, Channel.nextWrite, h, writeWithin, hk]

/-- A failed write is the answer that comes, when it is the one fixed. -/
theorem Channel.write_fixed_error (v : List Byte) {rest : List WriteAnswer} (h : c.outbound = .ioError :: rest) :
    (c.write v).1 = .ioError := by
  simp [Channel.write, Channel.nextWrite, h, writeWithin]

/-- Any read answer within the contract is the one that comes, when it is the one fixed. -/
theorem Channel.read_fixed (max : Nat) (t : WaitBound) {v : List Byte} (hv : v.length ≤ max) {rest : List ReadAnswer}
    (h : c.inbound = .bytes v :: rest) :
    c.read max t = (.bytes v, { c with inbound := rest, log := c.log ++ [.read max t (.bytes v)] }) := by
  simp [Channel.read, Channel.nextRead, h, List.take_of_length_le hv, List.drop_eq_nil_of_le hv, Channel.keep,
    Channel.record]

/-- A failed read is the answer that comes, when it is the one fixed. -/
theorem Channel.read_fixed_error (max : Nat) (t : WaitBound) {rest : List ReadAnswer} (h : c.inbound = .ioError :: rest) :
    (c.read max t).1 = .ioError := by
  simp [Channel.read, Channel.nextRead, h]

end Sys2Proof.Machine
end

