-- ==== Sys2Proof/Laws/State.lean ====
section
/-!
SUPPORT. One lemma for each field of the state and each named update: what the update writes, and that it leaves every
other field alone.
-/
namespace Sys2Proof.Machine

variable (s : State)

/-! ### setPhase -/

@[simp] theorem State.setPhase_head (p : Phase) : (s.setPhase p).head = s.head := rfl
@[simp] theorem State.setPhase_sel (p : Phase) : (s.setPhase p).sel = s.sel := rfl
@[simp] theorem State.setPhase_phase (p : Phase) : (s.setPhase p).phase = p := rfl
@[simp] theorem State.setPhase_kind (p : Phase) : (s.setPhase p).kind = s.kind := rfl
@[simp] theorem State.setPhase_cmd (p : Phase) : (s.setPhase p).cmd = s.cmd := rfl
@[simp] theorem State.setPhase_fb (p : Phase) : (s.setPhase p).fb = s.fb := rfl
@[simp] theorem State.setPhase_fn (p : Phase) : (s.setPhase p).fn = s.fn := rfl
@[simp] theorem State.setPhase_tb (p : Phase) : (s.setPhase p).tb = s.tb := rfl
@[simp] theorem State.setPhase_tn (p : Phase) : (s.setPhase p).tn = s.tn := rfl
@[simp] theorem State.setPhase_len (p : Phase) : (s.setPhase p).len = s.len := rfl
@[simp] theorem State.setPhase_out (p : Phase) : (s.setPhase p).out = s.out := rfl
@[simp] theorem State.setPhase_pending (p : Phase) : (s.setPhase p).pending = s.pending := rfl
@[simp] theorem State.setPhase_ret (p : Phase) : (s.setPhase p).ret = s.ret := rfl
@[simp] theorem State.setPhase_chan (p : Phase) : (s.setPhase p).chan = s.chan := rfl

/-! ### setChan -/

@[simp] theorem State.setChan_head (c : Channel) : (s.setChan c).head = s.head := rfl
@[simp] theorem State.setChan_sel (c : Channel) : (s.setChan c).sel = s.sel := rfl
@[simp] theorem State.setChan_phase (c : Channel) : (s.setChan c).phase = s.phase := rfl
@[simp] theorem State.setChan_kind (c : Channel) : (s.setChan c).kind = s.kind := rfl
@[simp] theorem State.setChan_cmd (c : Channel) : (s.setChan c).cmd = s.cmd := rfl
@[simp] theorem State.setChan_fb (c : Channel) : (s.setChan c).fb = s.fb := rfl
@[simp] theorem State.setChan_fn (c : Channel) : (s.setChan c).fn = s.fn := rfl
@[simp] theorem State.setChan_tb (c : Channel) : (s.setChan c).tb = s.tb := rfl
@[simp] theorem State.setChan_tn (c : Channel) : (s.setChan c).tn = s.tn := rfl
@[simp] theorem State.setChan_len (c : Channel) : (s.setChan c).len = s.len := rfl
@[simp] theorem State.setChan_out (c : Channel) : (s.setChan c).out = s.out := rfl
@[simp] theorem State.setChan_pending (c : Channel) : (s.setChan c).pending = s.pending := rfl
@[simp] theorem State.setChan_ret (c : Channel) : (s.setChan c).ret = s.ret := rfl
@[simp] theorem State.setChan_chan (c : Channel) : (s.setChan c).chan = c := rfl

/-! ### respond -/

@[simp] theorem State.respond_head (r : HostResult) : (s.respond r).head = s.head := rfl
@[simp] theorem State.respond_sel (r : HostResult) : (s.respond r).sel = s.sel := rfl
@[simp] theorem State.respond_phase (r : HostResult) : (s.respond r).phase = s.phase := rfl
@[simp] theorem State.respond_kind (r : HostResult) : (s.respond r).kind = s.kind := rfl
@[simp] theorem State.respond_cmd (r : HostResult) : (s.respond r).cmd = s.cmd := rfl
@[simp] theorem State.respond_fb (r : HostResult) : (s.respond r).fb = s.fb := rfl
@[simp] theorem State.respond_fn (r : HostResult) : (s.respond r).fn = s.fn := rfl
@[simp] theorem State.respond_tb (r : HostResult) : (s.respond r).tb = s.tb := rfl
@[simp] theorem State.respond_tn (r : HostResult) : (s.respond r).tn = s.tn := rfl
@[simp] theorem State.respond_len (r : HostResult) : (s.respond r).len = s.len := rfl
@[simp] theorem State.respond_out (r : HostResult) : (s.respond r).out = s.out := rfl
@[simp] theorem State.respond_pending (r : HostResult) : (s.respond r).pending = s.pending := rfl
@[simp] theorem State.respond_ret (r : HostResult) : (s.respond r).ret = some r := rfl
@[simp] theorem State.respond_chan (r : HostResult) : (s.respond r).chan = s.chan := rfl

/-! ### setSel -/

@[simp] theorem State.setSel_head (d : Option (Fin 4)) : (s.setSel d).head = s.head := rfl
@[simp] theorem State.setSel_sel (d : Option (Fin 4)) : (s.setSel d).sel = d := rfl
@[simp] theorem State.setSel_phase (d : Option (Fin 4)) : (s.setSel d).phase = s.phase := rfl
@[simp] theorem State.setSel_kind (d : Option (Fin 4)) : (s.setSel d).kind = s.kind := rfl
@[simp] theorem State.setSel_cmd (d : Option (Fin 4)) : (s.setSel d).cmd = s.cmd := rfl
@[simp] theorem State.setSel_fb (d : Option (Fin 4)) : (s.setSel d).fb = s.fb := rfl
@[simp] theorem State.setSel_fn (d : Option (Fin 4)) : (s.setSel d).fn = s.fn := rfl
@[simp] theorem State.setSel_tb (d : Option (Fin 4)) : (s.setSel d).tb = s.tb := rfl
@[simp] theorem State.setSel_tn (d : Option (Fin 4)) : (s.setSel d).tn = s.tn := rfl
@[simp] theorem State.setSel_len (d : Option (Fin 4)) : (s.setSel d).len = s.len := rfl
@[simp] theorem State.setSel_out (d : Option (Fin 4)) : (s.setSel d).out = s.out := rfl
@[simp] theorem State.setSel_pending (d : Option (Fin 4)) : (s.setSel d).pending = s.pending := rfl
@[simp] theorem State.setSel_ret (d : Option (Fin 4)) : (s.setSel d).ret = s.ret := rfl
@[simp] theorem State.setSel_chan (d : Option (Fin 4)) : (s.setSel d).chan = s.chan := rfl

/-! ### setHeadBit -/

@[simp] theorem State.setHeadBit_head (d : Fin 4) (v : Bool) :
    (s.setHeadBit d v).head = s.head.set d.val v d.isLt := rfl
@[simp] theorem State.setHeadBit_sel (d : Fin 4) (v : Bool) : (s.setHeadBit d v).sel = s.sel := rfl
@[simp] theorem State.setHeadBit_phase (d : Fin 4) (v : Bool) : (s.setHeadBit d v).phase = s.phase := rfl
@[simp] theorem State.setHeadBit_kind (d : Fin 4) (v : Bool) : (s.setHeadBit d v).kind = s.kind := rfl
@[simp] theorem State.setHeadBit_cmd (d : Fin 4) (v : Bool) : (s.setHeadBit d v).cmd = s.cmd := rfl
@[simp] theorem State.setHeadBit_fb (d : Fin 4) (v : Bool) : (s.setHeadBit d v).fb = s.fb := rfl
@[simp] theorem State.setHeadBit_fn (d : Fin 4) (v : Bool) : (s.setHeadBit d v).fn = s.fn := rfl
@[simp] theorem State.setHeadBit_tb (d : Fin 4) (v : Bool) : (s.setHeadBit d v).tb = s.tb := rfl
@[simp] theorem State.setHeadBit_tn (d : Fin 4) (v : Bool) : (s.setHeadBit d v).tn = s.tn := rfl
@[simp] theorem State.setHeadBit_len (d : Fin 4) (v : Bool) : (s.setHeadBit d v).len = s.len := rfl
@[simp] theorem State.setHeadBit_out (d : Fin 4) (v : Bool) : (s.setHeadBit d v).out = s.out := rfl
@[simp] theorem State.setHeadBit_pending (d : Fin 4) (v : Bool) : (s.setHeadBit d v).pending = s.pending := rfl
@[simp] theorem State.setHeadBit_ret (d : Fin 4) (v : Bool) : (s.setHeadBit d v).ret = s.ret := rfl
@[simp] theorem State.setHeadBit_chan (d : Fin 4) (v : Bool) : (s.setHeadBit d v).chan = s.chan := rfl

/-! ### beginExchange -/

@[simp] theorem State.beginExchange_head (k : Kind) (frame : List Byte) :
    (s.beginExchange k frame).head = s.head := rfl
@[simp] theorem State.beginExchange_sel (k : Kind) (frame : List Byte) : (s.beginExchange k frame).sel = s.sel := rfl
@[simp] theorem State.beginExchange_phase (k : Kind) (frame : List Byte) :
    (s.beginExchange k frame).phase = .sendCmd := rfl
@[simp] theorem State.beginExchange_kind (k : Kind) (frame : List Byte) : (s.beginExchange k frame).kind = k := rfl
@[simp] theorem State.beginExchange_cmd (k : Kind) (frame : List Byte) :
    (s.beginExchange k frame).cmd = memWrite s.cmd 0 frame := rfl
@[simp] theorem State.beginExchange_fb (k : Kind) (frame : List Byte) : (s.beginExchange k frame).fb = s.fb := rfl
@[simp] theorem State.beginExchange_fn (k : Kind) (frame : List Byte) : (s.beginExchange k frame).fn = s.fn := rfl
@[simp] theorem State.beginExchange_tb (k : Kind) (frame : List Byte) : (s.beginExchange k frame).tb = s.tb := rfl
@[simp] theorem State.beginExchange_tn (k : Kind) (frame : List Byte) : (s.beginExchange k frame).tn = s.tn := rfl
@[simp] theorem State.beginExchange_len (k : Kind) (frame : List Byte) : (s.beginExchange k frame).len = s.len := rfl
@[simp] theorem State.beginExchange_out (k : Kind) (frame : List Byte) : (s.beginExchange k frame).out = s.out := rfl
@[simp] theorem State.beginExchange_pending (k : Kind) (frame : List Byte) :
    (s.beginExchange k frame).pending = s.pending := rfl
@[simp] theorem State.beginExchange_ret (k : Kind) (frame : List Byte) : (s.beginExchange k frame).ret = s.ret := rfl
@[simp] theorem State.beginExchange_chan (k : Kind) (frame : List Byte) :
    (s.beginExchange k frame).chan = s.chan := rfl

/-! ### latchLen -/

@[simp] theorem State.latchLen_head (g : Geometry) : (s.latchLen g).head = s.head := rfl
@[simp] theorem State.latchLen_sel (g : Geometry) : (s.latchLen g).sel = s.sel := rfl
@[simp] theorem State.latchLen_phase (g : Geometry) : (s.latchLen g).phase = s.phase := rfl
@[simp] theorem State.latchLen_kind (g : Geometry) : (s.latchLen g).kind = s.kind := rfl
@[simp] theorem State.latchLen_cmd (g : Geometry) : (s.latchLen g).cmd = s.cmd := rfl
@[simp] theorem State.latchLen_fb (g : Geometry) : (s.latchLen g).fb = s.fb := rfl
@[simp] theorem State.latchLen_fn (g : Geometry) : (s.latchLen g).fn = s.fn := rfl
@[simp] theorem State.latchLen_tb (g : Geometry) : (s.latchLen g).tb = s.tb := rfl
@[simp] theorem State.latchLen_tn (g : Geometry) : (s.latchLen g).tn = s.tn := rfl
@[simp] theorem State.latchLen_len (g : Geometry) : (s.latchLen g).len = g := rfl
@[simp] theorem State.latchLen_out (g : Geometry) : (s.latchLen g).out = s.out := rfl
@[simp] theorem State.latchLen_pending (g : Geometry) : (s.latchLen g).pending = s.pending := rfl
@[simp] theorem State.latchLen_ret (g : Geometry) : (s.latchLen g).ret = s.ret := rfl
@[simp] theorem State.latchLen_chan (g : Geometry) : (s.latchLen g).chan = s.chan := rfl

/-! ### latchPayload -/

@[simp] theorem State.latchPayload_head (data : List Byte) : (s.latchPayload data).head = s.head := rfl
@[simp] theorem State.latchPayload_sel (data : List Byte) : (s.latchPayload data).sel = s.sel := rfl
@[simp] theorem State.latchPayload_phase (data : List Byte) : (s.latchPayload data).phase = s.phase := rfl
@[simp] theorem State.latchPayload_kind (data : List Byte) : (s.latchPayload data).kind = s.kind := rfl
@[simp] theorem State.latchPayload_cmd (data : List Byte) : (s.latchPayload data).cmd = s.cmd := rfl
@[simp] theorem State.latchPayload_fb (data : List Byte) : (s.latchPayload data).fb = s.fb := rfl
@[simp] theorem State.latchPayload_fn (data : List Byte) : (s.latchPayload data).fn = s.fn := rfl
@[simp] theorem State.latchPayload_tb (data : List Byte) : (s.latchPayload data).tb = memWrite s.tb 0 data := rfl
@[simp] theorem State.latchPayload_tn (data : List Byte) : (s.latchPayload data).tn = s.tn := rfl
@[simp] theorem State.latchPayload_len (data : List Byte) : (s.latchPayload data).len = s.len := rfl
@[simp] theorem State.latchPayload_out (data : List Byte) : (s.latchPayload data).out = s.out := rfl
@[simp] theorem State.latchPayload_pending (data : List Byte) : (s.latchPayload data).pending = s.pending := rfl
@[simp] theorem State.latchPayload_ret (data : List Byte) : (s.latchPayload data).ret = s.ret := rfl
@[simp] theorem State.latchPayload_chan (data : List Byte) : (s.latchPayload data).chan = s.chan := rfl

/-! ### clearCounts -/

@[simp] theorem State.clearCounts_head : (s.clearCounts).head = s.head := rfl
@[simp] theorem State.clearCounts_sel : (s.clearCounts).sel = s.sel := rfl
@[simp] theorem State.clearCounts_phase : (s.clearCounts).phase = s.phase := rfl
@[simp] theorem State.clearCounts_kind : (s.clearCounts).kind = s.kind := rfl
@[simp] theorem State.clearCounts_cmd : (s.clearCounts).cmd = s.cmd := rfl
@[simp] theorem State.clearCounts_fb : (s.clearCounts).fb = s.fb := rfl
@[simp] theorem State.clearCounts_fn : (s.clearCounts).fn = 0 := rfl
@[simp] theorem State.clearCounts_tb : (s.clearCounts).tb = s.tb := rfl
@[simp] theorem State.clearCounts_tn : (s.clearCounts).tn = 0 := rfl
@[simp] theorem State.clearCounts_len : (s.clearCounts).len = s.len := rfl
@[simp] theorem State.clearCounts_out : (s.clearCounts).out = s.out := rfl
@[simp] theorem State.clearCounts_pending : (s.clearCounts).pending = s.pending := rfl
@[simp] theorem State.clearCounts_ret : (s.clearCounts).ret = s.ret := rfl
@[simp] theorem State.clearCounts_chan : (s.clearCounts).chan = s.chan := rfl

/-! ### clearFrame -/

@[simp] theorem State.clearFrame_head : (s.clearFrame).head = s.head := rfl
@[simp] theorem State.clearFrame_sel : (s.clearFrame).sel = s.sel := rfl
@[simp] theorem State.clearFrame_phase : (s.clearFrame).phase = s.phase := rfl
@[simp] theorem State.clearFrame_kind : (s.clearFrame).kind = s.kind := rfl
@[simp] theorem State.clearFrame_cmd : (s.clearFrame).cmd = s.cmd := rfl
@[simp] theorem State.clearFrame_fb : (s.clearFrame).fb = s.fb := rfl
@[simp] theorem State.clearFrame_fn : (s.clearFrame).fn = 0 := rfl
@[simp] theorem State.clearFrame_tb : (s.clearFrame).tb = s.tb := rfl
@[simp] theorem State.clearFrame_tn : (s.clearFrame).tn = s.tn := rfl
@[simp] theorem State.clearFrame_len : (s.clearFrame).len = s.len := rfl
@[simp] theorem State.clearFrame_out : (s.clearFrame).out = s.out := rfl
@[simp] theorem State.clearFrame_pending : (s.clearFrame).pending = s.pending := rfl
@[simp] theorem State.clearFrame_ret : (s.clearFrame).ret = s.ret := rfl
@[simp] theorem State.clearFrame_chan : (s.clearFrame).chan = s.chan := rfl

/-! ### pushFrame -/

@[simp] theorem State.pushFrame_head (v : List Byte) : (s.pushFrame v).head = s.head := rfl
@[simp] theorem State.pushFrame_sel (v : List Byte) : (s.pushFrame v).sel = s.sel := rfl
@[simp] theorem State.pushFrame_phase (v : List Byte) : (s.pushFrame v).phase = s.phase := rfl
@[simp] theorem State.pushFrame_kind (v : List Byte) : (s.pushFrame v).kind = s.kind := rfl
@[simp] theorem State.pushFrame_cmd (v : List Byte) : (s.pushFrame v).cmd = s.cmd := rfl
@[simp] theorem State.pushFrame_fb (v : List Byte) : (s.pushFrame v).fb = memWrite s.fb s.fn v := rfl
@[simp] theorem State.pushFrame_fn (v : List Byte) : (s.pushFrame v).fn = s.fn + v.length := rfl
@[simp] theorem State.pushFrame_tb (v : List Byte) : (s.pushFrame v).tb = s.tb := rfl
@[simp] theorem State.pushFrame_tn (v : List Byte) : (s.pushFrame v).tn = s.tn := rfl
@[simp] theorem State.pushFrame_len (v : List Byte) : (s.pushFrame v).len = s.len := rfl
@[simp] theorem State.pushFrame_out (v : List Byte) : (s.pushFrame v).out = s.out := rfl
@[simp] theorem State.pushFrame_pending (v : List Byte) : (s.pushFrame v).pending = s.pending := rfl
@[simp] theorem State.pushFrame_ret (v : List Byte) : (s.pushFrame v).ret = s.ret := rfl
@[simp] theorem State.pushFrame_chan (v : List Byte) : (s.pushFrame v).chan = s.chan := rfl

/-! ### pushTrack -/

@[simp] theorem State.pushTrack_head (v : List Byte) : (s.pushTrack v).head = s.head := rfl
@[simp] theorem State.pushTrack_sel (v : List Byte) : (s.pushTrack v).sel = s.sel := rfl
@[simp] theorem State.pushTrack_phase (v : List Byte) : (s.pushTrack v).phase = s.phase := rfl
@[simp] theorem State.pushTrack_kind (v : List Byte) : (s.pushTrack v).kind = s.kind := rfl
@[simp] theorem State.pushTrack_cmd (v : List Byte) : (s.pushTrack v).cmd = s.cmd := rfl
@[simp] theorem State.pushTrack_fb (v : List Byte) : (s.pushTrack v).fb = s.fb := rfl
@[simp] theorem State.pushTrack_fn (v : List Byte) : (s.pushTrack v).fn = s.fn := rfl
@[simp] theorem State.pushTrack_tb (v : List Byte) : (s.pushTrack v).tb = memWrite s.tb s.tn v := rfl
@[simp] theorem State.pushTrack_tn (v : List Byte) : (s.pushTrack v).tn = s.tn + v.length := rfl
@[simp] theorem State.pushTrack_len (v : List Byte) : (s.pushTrack v).len = s.len := rfl
@[simp] theorem State.pushTrack_out (v : List Byte) : (s.pushTrack v).out = s.out := rfl
@[simp] theorem State.pushTrack_pending (v : List Byte) : (s.pushTrack v).pending = s.pending := rfl
@[simp] theorem State.pushTrack_ret (v : List Byte) : (s.pushTrack v).ret = s.ret := rfl
@[simp] theorem State.pushTrack_chan (v : List Byte) : (s.pushTrack v).chan = s.chan := rfl

/-! ### appendChecksum -/

@[simp] theorem State.appendChecksum_head : (s.appendChecksum).head = s.head := rfl
@[simp] theorem State.appendChecksum_sel : (s.appendChecksum).sel = s.sel := rfl
@[simp] theorem State.appendChecksum_phase : (s.appendChecksum).phase = s.phase := rfl
@[simp] theorem State.appendChecksum_kind : (s.appendChecksum).kind = s.kind := rfl
@[simp] theorem State.appendChecksum_cmd : (s.appendChecksum).cmd = s.cmd := rfl
@[simp] theorem State.appendChecksum_fb : (s.appendChecksum).fb = s.fb := rfl
@[simp] theorem State.appendChecksum_fn : (s.appendChecksum).fn = s.fn := rfl
@[simp] theorem State.appendChecksum_tb :
    (s.appendChecksum).tb = memWrite s.tb s.L (le16 (cksum16 (memRead s.tb 0 s.L))) := rfl
@[simp] theorem State.appendChecksum_tn : (s.appendChecksum).tn = s.tn := rfl
@[simp] theorem State.appendChecksum_len : (s.appendChecksum).len = s.len := rfl
@[simp] theorem State.appendChecksum_out : (s.appendChecksum).out = s.out := rfl
@[simp] theorem State.appendChecksum_pending : (s.appendChecksum).pending = s.pending := rfl
@[simp] theorem State.appendChecksum_ret : (s.appendChecksum).ret = s.ret := rfl
@[simp] theorem State.appendChecksum_chan : (s.appendChecksum).chan = s.chan := rfl

/-! ### dropPending -/

@[simp] theorem State.dropPending_head : (s.dropPending).head = s.head := rfl
@[simp] theorem State.dropPending_sel : (s.dropPending).sel = s.sel := rfl
@[simp] theorem State.dropPending_phase : (s.dropPending).phase = s.phase := rfl
@[simp] theorem State.dropPending_kind : (s.dropPending).kind = s.kind := rfl
@[simp] theorem State.dropPending_cmd : (s.dropPending).cmd = s.cmd := rfl
@[simp] theorem State.dropPending_fb : (s.dropPending).fb = s.fb := rfl
@[simp] theorem State.dropPending_fn : (s.dropPending).fn = s.fn := rfl
@[simp] theorem State.dropPending_tb : (s.dropPending).tb = s.tb := rfl
@[simp] theorem State.dropPending_tn : (s.dropPending).tn = s.tn := rfl
@[simp] theorem State.dropPending_len : (s.dropPending).len = s.len := rfl
@[simp] theorem State.dropPending_out : (s.dropPending).out = s.out := rfl
@[simp] theorem State.dropPending_pending : (s.dropPending).pending = s.pending.tail := rfl
@[simp] theorem State.dropPending_ret : (s.dropPending).ret = s.ret := rfl
@[simp] theorem State.dropPending_chan : (s.dropPending).chan = s.chan := rfl

/-! ### finish -/

@[simp] theorem State.finish_head (o : ExOutcome) : (s.finish o).head = s.head := rfl
@[simp] theorem State.finish_sel (o : ExOutcome) : (s.finish o).sel = s.sel := rfl
@[simp] theorem State.finish_phase (o : ExOutcome) : (s.finish o).phase = .done := rfl
@[simp] theorem State.finish_kind (o : ExOutcome) : (s.finish o).kind = s.kind := rfl
@[simp] theorem State.finish_cmd (o : ExOutcome) : (s.finish o).cmd = s.cmd := rfl
@[simp] theorem State.finish_fb (o : ExOutcome) : (s.finish o).fb = s.fb := rfl
@[simp] theorem State.finish_fn (o : ExOutcome) : (s.finish o).fn = s.fn := rfl
@[simp] theorem State.finish_tb (o : ExOutcome) : (s.finish o).tb = s.tb := rfl
@[simp] theorem State.finish_tn (o : ExOutcome) : (s.finish o).tn = s.tn := rfl
@[simp] theorem State.finish_len (o : ExOutcome) : (s.finish o).len = s.len := rfl
@[simp] theorem State.finish_out (o : ExOutcome) : (s.finish o).out = o := rfl
@[simp] theorem State.finish_pending (o : ExOutcome) : (s.finish o).pending = s.pending := rfl
@[simp] theorem State.finish_ret (o : ExOutcome) : (s.finish o).ret = s.ret := rfl
@[simp] theorem State.finish_chan (o : ExOutcome) : (s.finish o).chan = s.chan := rfl

/-! ### returnOutcome -/

@[simp] theorem State.returnOutcome_head : (s.returnOutcome).head = s.head := rfl
@[simp] theorem State.returnOutcome_sel : (s.returnOutcome).sel = s.sel := rfl
@[simp] theorem State.returnOutcome_phase : (s.returnOutcome).phase = .idle := rfl
@[simp] theorem State.returnOutcome_kind : (s.returnOutcome).kind = s.kind := rfl
@[simp] theorem State.returnOutcome_cmd : (s.returnOutcome).cmd = s.cmd := rfl
@[simp] theorem State.returnOutcome_fb : (s.returnOutcome).fb = s.fb := rfl
@[simp] theorem State.returnOutcome_fn : (s.returnOutcome).fn = s.fn := rfl
@[simp] theorem State.returnOutcome_tb : (s.returnOutcome).tb = s.tb := rfl
@[simp] theorem State.returnOutcome_tn : (s.returnOutcome).tn = s.tn := rfl
@[simp] theorem State.returnOutcome_len : (s.returnOutcome).len = s.len := rfl
@[simp] theorem State.returnOutcome_out : (s.returnOutcome).out = s.out := rfl
@[simp] theorem State.returnOutcome_pending : (s.returnOutcome).pending = s.pending := rfl
@[simp] theorem State.returnOutcome_ret : (s.returnOutcome).ret = some (.outcome s.out) := rfl
@[simp] theorem State.returnOutcome_chan : (s.returnOutcome).chan = s.chan := rfl

/-! ### L -/

@[simp] theorem State.setPhase_L (p : Phase) : (s.setPhase p).L = s.L := rfl
@[simp] theorem State.setChan_L (c : Channel) : (s.setChan c).L = s.L := rfl
@[simp] theorem State.respond_L (r : HostResult) : (s.respond r).L = s.L := rfl
@[simp] theorem State.setSel_L (d : Option (Fin 4)) : (s.setSel d).L = s.L := rfl
@[simp] theorem State.setHeadBit_L (d : Fin 4) (v : Bool) : (s.setHeadBit d v).L = s.L := rfl
@[simp] theorem State.beginExchange_L (k : Kind) (frame : List Byte) : (s.beginExchange k frame).L = s.L := rfl
@[simp] theorem State.latchPayload_L (data : List Byte) : (s.latchPayload data).L = s.L := rfl
@[simp] theorem State.clearCounts_L : (s.clearCounts).L = s.L := rfl
@[simp] theorem State.clearFrame_L : (s.clearFrame).L = s.L := rfl
@[simp] theorem State.pushFrame_L (v : List Byte) : (s.pushFrame v).L = s.L := rfl
@[simp] theorem State.pushTrack_L (v : List Byte) : (s.pushTrack v).L = s.L := rfl
@[simp] theorem State.appendChecksum_L : (s.appendChecksum).L = s.L := rfl
@[simp] theorem State.dropPending_L : (s.dropPending).L = s.L := rfl
@[simp] theorem State.finish_L (o : ExOutcome) : (s.finish o).L = s.L := rfl
@[simp] theorem State.returnOutcome_L : (s.returnOutcome).L = s.L := rfl
@[simp] theorem State.latchLen_L (g : Geometry) : (s.latchLen g).L = g.trackLen := rfl

end Sys2Proof.Machine
end

