-- ==== Sys2Proof/Laws/Session.lean ====
section
/-!
SUPPORT. Inversion lemmas: all that each shared operation, each engine step and the fetch can do. Later proofs cite these
and do not unfold the operations.
-/
namespace Sys2Proof.Machine

variable {s t : State} {r : StepResult}

/-- A host operation answers a next state in `IDLE` only (R100). -/
theorem whenIdle_next : whenIdle s r = .next t ↔ s.phase = .idle ∧ r = .next t := by
  unfold whenIdle; split <;> simp_all

/-- A host operation does not fault unless what it does faults. -/
theorem whenIdle_fault {f : Fault} : whenIdle s r = .fault f ↔ s.phase = .idle ∧ r = .fault f := by
  unfold whenIdle; split <;> simp_all

theorem whenIdle_idle (h : s.phase = .idle) : whenIdle s r = r := by simp [whenIdle, h]

theorem whenIdle_busy (h : s.phase ≠ .idle) : whenIdle s r = .refused .hostBlocked := by simp [whenIdle, h]

/-- R104: the whole frame is written and the first wait begins, or the exchange ends with `IoError`. -/
theorem transmitCommand_cases (frame : List Byte) (s : State) :
    (s.chan.write frame).1 = .written frame.length ∧
      transmitCommand frame s = ((s.setChan (s.chan.write frame).2).clearCounts).setPhase (firstWait s.kind) ∨
    (s.chan.write frame).1 ≠ .written frame.length ∧
      transmitCommand frame s = (s.setChan (s.chan.write frame).2).finish .ioError := by
  by_cases h : (s.chan.write frame).1 = .written frame.length
  · exact .inl ⟨h, by simp [transmitCommand, h]⟩
  · exact .inr ⟨h, by simp [transmitCommand, h]⟩

/-- R113: the whole payload is written and the wait for `WSTA` begins, or the exchange ends with `IoError`. -/
theorem sendPayload_cases (s : State) :
    (s.chan.write (memRead s.appendChecksum.tb 0 (s.L + 2))).1 = .written (s.L + 2) ∧
      sendPayload s = ((s.appendChecksum.setChan (s.chan.write (memRead s.appendChecksum.tb 0 (s.L + 2))).2).clearFrame).setPhase
        .awaitWsta ∨
    (s.chan.write (memRead s.appendChecksum.tb 0 (s.L + 2))).1 ≠ .written (s.L + 2) ∧
      sendPayload s = (s.appendChecksum.setChan (s.chan.write (memRead s.appendChecksum.tb 0 (s.L + 2))).2).finish .ioError := by
  by_cases h : (s.chan.write (memRead s.appendChecksum.tb 0 (s.L + 2))).1 = .written (s.L + 2)
  · exact .inl ⟨h, by simp only [sendPayload, State.appendChecksum_chan, State.appendChecksum_L, h, if_true]⟩
  · exact .inr ⟨h, by simp only [sendPayload, State.appendChecksum_chan, State.appendChecksum_L, h, if_false]⟩

/-- R105: an error, no bytes, or bytes that are collected and fill `FB` or do not. -/
theorem frameAttempt_cases (s : State) :
    (s.chan.read (Config.frameLen - s.fn) .frame).1 = .ioError ∧
      frameAttempt s = .ended ((s.setChan (s.chan.read (Config.frameLen - s.fn) .frame).2).finish .ioError) ∨
    (s.chan.read (Config.frameLen - s.fn) .frame).1 = .bytes [] ∧
      frameAttempt s = .ended ((s.setChan (s.chan.read (Config.frameLen - s.fn) .frame).2).finish .timeout) ∨
    ∃ v, (s.chan.read (Config.frameLen - s.fn) .frame).1 = .bytes v ∧ v ≠ [] ∧ s.fn + v.length ≤ Config.frameLen ∧
      frameAttempt s =
        if s.fn + v.length = Config.frameLen
        then .full ((s.setChan (s.chan.read (Config.frameLen - s.fn) .frame).2).pushFrame v)
        else .ended ((s.setChan (s.chan.read (Config.frameLen - s.fn) .frame).2).pushFrame v) := by
  cases h : (s.chan.read (Config.frameLen - s.fn) .frame).1 with
  | ioError => exact .inl ⟨rfl, by simp only [frameAttempt, h]⟩
  | bytes v =>
    match v with
    | [] => exact .inr (.inl ⟨rfl, by simp [frameAttempt, h]⟩)
    | b :: bs =>
      have hle := Channel.read_le _ _ _ h
      have : (b :: bs).length ≥ 1 := by simp
      exact .inr (.inr ⟨b :: bs, rfl, by simp, by omega, by simp [frameAttempt, h]; rfl⟩)

/-- R111 and R114: an error, no bytes, or bytes that are collected and fill the payload or do not. -/
theorem payloadStep_cases (s : State) :
    (s.chan.read (s.L + 2 - s.tn) .chunk).1 = .ioError ∧
      payloadStep s = .next ((s.setChan (s.chan.read (s.L + 2 - s.tn) .chunk).2).finish .ioError) ∨
    (s.chan.read (s.L + 2 - s.tn) .chunk).1 = .bytes [] ∧
      payloadStep s = .next ((s.setChan (s.chan.read (s.L + 2 - s.tn) .chunk).2).finish (.partialData s.tn)) ∨
    ∃ v, (s.chan.read (s.L + 2 - s.tn) .chunk).1 = .bytes v ∧ v ≠ [] ∧ s.tn + v.length ≤ s.L + 2 ∧
      payloadStep s =
        if s.tn + v.length = s.L + 2
        then checkPayload ((s.setChan (s.chan.read (s.L + 2 - s.tn) .chunk).2).pushTrack v)
        else .next ((s.setChan (s.chan.read (s.L + 2 - s.tn) .chunk).2).pushTrack v) := by
  cases h : (s.chan.read (s.L + 2 - s.tn) .chunk).1 with
  | ioError => exact .inl ⟨rfl, by simp only [payloadStep, h]⟩
  | bytes v =>
    match v with
    | [] => exact .inr (.inl ⟨rfl, by simp [payloadStep, h]⟩)
    | b :: bs =>
      have hle := Channel.read_le _ _ _ h
      have : (b :: bs).length ≥ 1 := by simp
      exact .inr (.inr ⟨b :: bs, rfl, by simp, by omega, by simp [payloadStep, h]; rfl⟩)

/-- R108: an acknowledgement ends the exchange or lets the payload be sent. -/
theorem acknowledge_cases (tag : Tag) (rcode : Word) (s : State) :
    tag = tagWrit ∧ rcode = 0 ∧ acknowledge tag rcode s = s.setPhase .readyToSend ∨
    ∃ o, ackVerdict tag rcode = some o ∧ acknowledge tag rcode s = s.finish o := by
  by_cases ht : tag = tagWrit
  · by_cases hr : rcode = 0#16
    · exact .inl ⟨ht, hr, by simp [acknowledge, ackVerdict, ht, hr]⟩
    · exact .inr ⟨.remoteRefusal .ack rcode, by simp [ackVerdict, ht, hr], by simp [acknowledge, ackVerdict, ht, hr]⟩
  · exact .inr ⟨.tagMismatch tagWrit tag, by simp [ackVerdict, ht], by simp [acknowledge, ackVerdict, ht]⟩

/-- The arbiter answers a next state in the frame waits only, by the rule of the wait (R106). -/
theorem arbitrate_next {tag : Tag} {rcode rdata : Word} (h : arbitrate tag rcode rdata s = .next t) :
    s.phase = .awaitFrame ∧ s.kind = .stat ∧ t = s.finish (statVerdict tag rdata) ∨
    s.phase = .awaitFrame ∧ s.kind = .writ ∧ t = acknowledge tag rcode s ∨
    s.phase = .awaitWsta ∧ t = s.finish (finalVerdict tag rcode) := by
  unfold arbitrate at h
  split at h
  · rename_i hp
    split at h
    · rename_i hk; exact .inl ⟨hp, hk, by simpa using h.symm⟩
    · rename_i hk; exact .inr (.inl ⟨hp, hk, by simpa using h.symm⟩)
    · cases h
  · rename_i hp; exact .inr (.inr ⟨hp, by simpa using h.symm⟩)
  all_goals cases h

/-- A request frame is sent in `SEND_CMD` only. -/
theorem sendRequest_next {i : Instr} : sendRequest i s = .next t ↔ s.phase = .sendCmd ∧ t = transmitCommand (encode i) s := by
  unfold sendRequest; split <;> simp_all [eq_comm]

/-- A response row of a tag and two words runs as the arbiter on that frame (R106). -/
theorem exec_responseOf {tag : Tag} {rcode rdata : Word} {i : Instr} (h : responseOf tag rcode rdata = .ok i) :
    exec i s = arbitrate tag rcode rdata s := by
  unfold responseOf at h
  split at h
  · rename_i ht; cases h; rw [ht]; rfl
  split at h
  · rename_i ht; cases h; rw [ht]; rfl
  split at h
  · rename_i ht; cases h; rw [ht]; rfl
  · cases h

/-- What a step of each phase runs. -/
theorem step_idle (h : s.phase = .idle) :
    step s = match s.pending with
      | [] => .next s
      | msg :: _ => match decode .host msg with
        | .ok i => exec i s.dropPending
        | .error e => .refused (.undecodable e) := by
  cases hq : s.pending with
  | nil => simp only [step, fetch, h, fetchHost, hq]
  | cons msg rest => cases hd : decode .host msg <;> simp only [step, fetch, h, fetchHost, hq, hd]

/-- A step in a frame wait: one read attempt and, when that fills `FB`, the arbiter (R105, R106), whatever the tag. -/
theorem step_frameWait (h : s.phase = .awaitFrame ∨ s.phase = .awaitWsta) :
    step s = match frameAttempt s with
      | .ended t => .next t
      | .full t => match fcDecode t.fb.toList with
        | .checksumInvalid => .next (ignoreFrame t)
        | .ok tag rcode rdata => arbitrate tag rcode rdata t := by
  have hf : fetch s = fetchResponse s := by rcases h with h | h <;> simp [fetch, h]
  rw [step, hf, fetchResponse]
  cases frameAttempt s with
  | ended t => rfl
  | full t =>
    simp only [fetchComplete]
    cases fcDecode t.fb.toList with
    | checksumInvalid => rfl
    | ok tag rcode rdata =>
      cases hr : responseOf tag rcode rdata with
      | ok i => simp only [hr]; exact exec_responseOf hr
      | error e => simp only [hr]

theorem step_payload (h : s.phase = .awaitPayload) : step s = payloadStep s := by simp [step, fetch, h]

theorem step_ready (h : s.phase = .readyToSend) : step s = .next (sendPayload s) := by simp [step, fetch, h]

theorem step_done (h : s.phase = .done) : step s = .next s.returnOutcome := by simp [step, fetch, h]

end Sys2Proof.Machine
end

