-- ==== Sys2Proof/Laws/Host.lean ====
section
/-!
SUPPORT. Everything a host operation can do when it answers a next state, one lemma for all eleven (30_encoding.md R76).
-/
namespace Sys2Proof.Machine

/-- What a host operation that ran has done. -/
inductive HostEffect (s : State) : Instr → State → Prop where
  | result (i : Instr) (r : HostResult) : HostEffect s i (s.respond r)
  | select (idx : Option Nat) (d : Option (Fin 4)) : HostEffect s (.dsSelect idx) ((s.setSel d).respond .done)
  | head (idx : Nat) (v : Bool) (d : Fin 4) : HostEffect s (.dsHead idx v) ((s.setHeadBit d v).respond .done)
  | noDrive (i : Instr) : s.sel = none → HostEffect s i (s.finish .invalidDrive)
  | stat : HostEffect s .exStat (s.beginExchange .stat (fcEncode tagStat (statParam1 s.sel s.head) 0))
  | read (track : Nat) (t : BitVec 12) (g : Geometry) (d : Fin 4) : s.sel = some d → trackArg track = some t →
      HostEffect s (.exRead track g)
        ((s.latchLen g).beginExchange .read (fcEncode tagRead (packTrack t (driveNibble d)) (lenWord g)))
  | writ (track : Nat) (t : BitVec 12) (g : Geometry) (data : List Byte) (d : Fin 4) : s.sel = some d →
      trackArg track = some t → data.length = g.trackLen →
      HostEffect s (.exWrit track g data)
        (((s.latchLen g).latchPayload data).beginExchange .writ
          (fcEncode tagWrit (packTrack t (driveNibble d)) (lenWord g)))

variable {s t : State} {i : Instr}

theorem execExRead_next {track : Nat} {g : Geometry} (h : execExRead track g s = .next t) :
    s.phase = .idle ∧ HostEffect s (.exRead track g) t := by
  obtain ⟨hp, h⟩ := whenIdle_next.mp h
  refine ⟨hp, ?_⟩
  cases ht : trackArg track with
  | none => simp [ht] at h
  | some t12 =>
    cases hs : s.sel with
    | none => simp only [ht, hs, Host.Outcome.next.injEq] at h; exact h ▸ .noDrive _ hs
    | some d => simp only [ht, hs, Host.Outcome.next.injEq] at h; exact h ▸ .read _ _ _ _ hs ht

theorem execExWrit_next {track : Nat} {g : Geometry} {data : List Byte} (h : execExWrit track g data s = .next t) :
    s.phase = .idle ∧ HostEffect s (.exWrit track g data) t := by
  obtain ⟨hp, h⟩ := whenIdle_next.mp h
  refine ⟨hp, ?_⟩
  cases ht : trackArg track with
  | none => simp [ht] at h
  | some t12 =>
    by_cases hl : data.length = g.trackLen
    · cases hs : s.sel with
      | none => simp only [ht, hl, hs, Host.Outcome.next.injEq, ne_eq, not_true_eq_false, if_false] at h; exact h ▸ .noDrive _ hs
      | some d =>
        simp only [ht, hl, hs, Host.Outcome.next.injEq, ne_eq, not_true_eq_false, if_false] at h
        exact h ▸ .writ _ _ _ _ _ hs ht hl
    · simp [ht, hl] at h

theorem execDsSelect_next {idx : Option Nat} (h : execDsSelect idx s = .next t) :
    s.phase = .idle ∧ HostEffect s (.dsSelect idx) t := by
  obtain ⟨hp, h⟩ := whenIdle_next.mp h
  refine ⟨hp, ?_⟩
  cases hd : selectArg idx with
  | none => simp [hd] at h
  | some d => simp only [hd, Host.Outcome.next.injEq] at h; exact h ▸ .select _ _

theorem execDsHead_next {idx : Nat} {v : Bool} (h : execDsHead idx v s = .next t) :
    s.phase = .idle ∧ HostEffect s (.dsHead idx v) t := by
  obtain ⟨hp, h⟩ := whenIdle_next.mp h
  refine ⟨hp, ?_⟩
  cases hd : driveArg idx with
  | none => simp [hd] at h
  | some d => simp only [hd, Host.Outcome.next.injEq] at h; exact h ▸ .head _ _ _

theorem execFcEncode_next {tag : List Byte} {p1 p2 : Word} (h : execFcEncode tag p1 p2 s = .next t) :
    s.phase = .idle ∧ HostEffect s (.fcEncode tag p1 p2) t := by
  obtain ⟨hp, h⟩ := whenIdle_next.mp h
  refine ⟨hp, ?_⟩
  cases ht : tagArg tag with
  | none => simp [ht] at h
  | some d => simp only [ht, Host.Outcome.next.injEq] at h; exact h ▸ .result _ _

theorem execFcDecode_next {f : List Byte} (h : execFcDecode f s = .next t) :
    s.phase = .idle ∧ HostEffect s (.fcDecode f) t := by
  obtain ⟨hp, h⟩ := whenIdle_next.mp h
  refine ⟨hp, ?_⟩
  split at h
  · simp only [Host.Outcome.next.injEq] at h; exact h ▸ .result _ _
  · cases h

/-- A host operation answers a next state in `IDLE` only, and has then had one of these effects. -/
theorem exec_host_next (hi : i.port = .host) (h : exec i s = .next t) : s.phase = .idle ∧ HostEffect s i t := by
  cases i with
  | reqStat => cases hi
  | reqRead => cases hi
  | reqWrit => cases hi
  | rspStat => cases hi
  | rspWrit => cases hi
  | rspWsta => cases hi
  | exStat => obtain ⟨hp, h⟩ := whenIdle_next.mp h; exact ⟨hp, Host.Outcome.next.inj h ▸ .stat⟩
  | exRead => exact execExRead_next h
  | exWrit => exact execExWrit_next h
  | dsSelect => exact execDsSelect_next h
  | dsHead => exact execDsHead_next h
  | dsHeadmap => obtain ⟨hp, h⟩ := whenIdle_next.mp h; exact ⟨hp, Host.Outcome.next.inj h ▸ .result _ _⟩
  | fcEncode => exact execFcEncode_next h
  | fcDecode => exact execFcDecode_next h
  | tcChecksum => obtain ⟨hp, h⟩ := whenIdle_next.mp h; exact ⟨hp, Host.Outcome.next.inj h ▸ .result _ _⟩
  | tcAppend => obtain ⟨hp, h⟩ := whenIdle_next.mp h; exact ⟨hp, Host.Outcome.next.inj h ▸ .result _ _⟩
  | tcValidate => obtain ⟨hp, h⟩ := whenIdle_next.mp h; exact ⟨hp, Host.Outcome.next.inj h ▸ .result _ _⟩

/-- No host operation faults. -/
theorem exec_host_no_fault (hi : i.port = .host) {f : Fault} : exec i s ≠ .fault f := by
  intro h
  cases i with
  | reqStat => cases hi
  | reqRead => cases hi
  | reqWrit => cases hi
  | rspStat => cases hi
  | rspWrit => cases hi
  | rspWsta => cases hi
  | exStat => cases (whenIdle_fault.mp h).2
  | exRead track g =>
    have h := (whenIdle_fault.mp h).2
    split at h
    · cases h
    · split at h <;> cases h
  | exWrit track g data =>
    have h := (whenIdle_fault.mp h).2
    split at h
    · cases h
    · split at h
      · cases h
      · split at h <;> cases h
  | dsSelect idx => have h := (whenIdle_fault.mp h).2; split at h <;> cases h
  | dsHead idx v => have h := (whenIdle_fault.mp h).2; split at h <;> cases h
  | dsHeadmap => cases (whenIdle_fault.mp h).2
  | fcEncode tag p1 p2 => have h := (whenIdle_fault.mp h).2; split at h <;> cases h
  | fcDecode f => have h := (whenIdle_fault.mp h).2; split at h <;> cases h
  | tcChecksum => cases (whenIdle_fault.mp h).2
  | tcAppend => cases (whenIdle_fault.mp h).2
  | tcValidate => cases (whenIdle_fault.mp h).2

/-- A host message decodes to a host operation only. -/
theorem decode_host_port {msg : List Byte} (h : decode .host msg = .ok i) : i.port = .host := by
  simp only [decode] at h
  unfold decodeHost at h
  split at h
  · cases h
  · split at h
    · unfold decodeNoArgs at h; split at h <;> cases h; rfl
    split at h
    · unfold decodeExRead at h
      split at h
      · split at h <;> cases h; rfl
      · cases h
    split at h
    · unfold decodeExWrit at h
      split at h
      · split at h <;> cases h; rfl
      · cases h
    split at h
    · unfold decodeDsSelect at h
      split at h
      · split at h <;> cases h; rfl
      · split at h <;> cases h; rfl
      · cases h
    split at h
    · unfold decodeDsHead at h
      split at h
      · split at h <;> cases h; rfl
      · cases h
    split at h
    · unfold decodeNoArgs at h; split at h <;> cases h; rfl
    split at h
    · unfold decodeFcEncode at h; split at h <;> cases h; rfl
    split at h
    · cases h; rfl
    split at h
    · cases h; rfl
    split at h
    · cases h; rfl
    split at h
    · unfold decodeTcValidate at h; split at h <;> cases h; rfl
    · cases h

/-- A step in `IDLE` that answers a next state: nothing was pending, or an operation has had its effect. -/
theorem step_idle_next (hp : s.phase = .idle) (h : step s = .next t) :
    s.pending = [] ∧ t = s ∨
    ∃ msg rest i, s.pending = msg :: rest ∧ decode .host msg = .ok i ∧ HostEffect s.dropPending i t := by
  rw [step_idle hp] at h
  split at h
  · rename_i hq; exact .inl ⟨hq, (Host.Outcome.next.inj h).symm⟩
  · rename_i msg rest hq
    split at h
    · rename_i i hd; exact .inr ⟨msg, rest, i, hq, hd, (exec_host_next (decode_host_port hd) h).2⟩
    · cases h

end Sys2Proof.Machine
end

