-- ==== Sys2Proof/Laws/PerInstr.lean ====
section
/-!
SUPPORT. One statement for every instruction as syntax: the form of its encoding. A wire row is a valid frame of ten bytes
with the tag of its row (30_encoding.md R66, R67, R79); a host operation is a message that begins with its number of R76.
-/
namespace Sys2Proof.Laws

open Machine

/-- The tag of a wire row (R67), or the number of a host operation (R76). -/
inductive RowKey where
  | tag (t : Tag)
  | op (code : Byte)
deriving DecidableEq, Repr

/-- The key of each row of spec/opcode_table.json. -/
def rowKey : Instr → RowKey
  | .reqStat _ _ => .tag tagStat
  | .reqRead _ _ _ => .tag tagRead
  | .reqWrit _ _ _ => .tag tagWrit
  | .rspStat _ _ => .tag tagStat
  | .rspWrit _ _ => .tag tagWrit
  | .rspWsta _ _ => .tag tagWsta
  | .exStat => .op 0x01
  | .exRead _ _ => .op 0x02
  | .exWrit _ _ _ => .op 0x03
  | .dsSelect _ => .op 0x10
  | .dsHead _ _ => .op 0x11
  | .dsHeadmap => .op 0x12
  | .fcEncode _ _ _ => .op 0x20
  | .fcDecode _ => .op 0x21
  | .tcChecksum _ => .op 0x30
  | .tcAppend _ => .op 0x31
  | .tcValidate _ _ => .op 0x32

/-- The encoding of the instruction has the form of its row, and it stands at the port of such rows. -/
def EncodedForm.Statement (i : Instr) : Prop :=
  match rowKey i with
  | .tag t => i.port ≠ .host ∧ (encode i).length = 10 ∧ (encode i).take 4 = t.bytes ∧ frameValid (encode i) = true
  | .op code => i.port = .host ∧ ∃ operands, encode i = code :: operands

/-- Every frame that `FC_ENCODE` builds is a valid frame with its tag (40_frame_codec.md R90). -/
theorem fcEncode_form (t : Tag) (p1 p2 : Word) :
    (fcEncode t p1 p2).length = 10 ∧ (fcEncode t p1 p2).take 4 = t.bytes ∧ frameValid (fcEncode t p1 p2) = true :=
  ⟨rfl, rfl, by simp [frameValid]⟩

theorem EncodedForm.reqStat (sel : Byte) (heads : BitVec 4) : EncodedForm.Statement (.reqStat sel heads) :=
  ⟨nofun, fcEncode_form _ _ _⟩

theorem EncodedForm.reqRead (track : BitVec 12) (drive : BitVec 4) (len : Word) :
    EncodedForm.Statement (.reqRead track drive len) :=
  ⟨nofun, fcEncode_form _ _ _⟩

theorem EncodedForm.reqWrit (track : BitVec 12) (drive : BitVec 4) (len : Word) :
    EncodedForm.Statement (.reqWrit track drive len) :=
  ⟨nofun, fcEncode_form _ _ _⟩

theorem EncodedForm.rspStat (rcode rdata : Word) : EncodedForm.Statement (.rspStat rcode rdata) :=
  ⟨nofun, fcEncode_form _ _ _⟩

theorem EncodedForm.rspWrit (rcode rdata : Word) : EncodedForm.Statement (.rspWrit rcode rdata) :=
  ⟨nofun, fcEncode_form _ _ _⟩

theorem EncodedForm.rspWsta (rcode rdata : Word) : EncodedForm.Statement (.rspWsta rcode rdata) :=
  ⟨nofun, fcEncode_form _ _ _⟩

theorem EncodedForm.exStat : EncodedForm.Statement .exStat := ⟨rfl, _, rfl⟩

theorem EncodedForm.exRead (track : Nat) (geometry : Geometry) : EncodedForm.Statement (.exRead track geometry) :=
  ⟨rfl, _, rfl⟩

theorem EncodedForm.exWrit (track : Nat) (geometry : Geometry) (data : List Byte) :
    EncodedForm.Statement (.exWrit track geometry data) := ⟨rfl, _, rfl⟩

theorem EncodedForm.dsSelect (idx : Option Nat) : EncodedForm.Statement (.dsSelect idx) := ⟨rfl, _, rfl⟩

theorem EncodedForm.dsHead (idx : Nat) (v : Bool) : EncodedForm.Statement (.dsHead idx v) := ⟨rfl, _, rfl⟩

theorem EncodedForm.dsHeadmap : EncodedForm.Statement .dsHeadmap := ⟨rfl, _, rfl⟩

theorem EncodedForm.fcEncode (tag : List Byte) (p1 p2 : Word) : EncodedForm.Statement (.fcEncode tag p1 p2) :=
  ⟨rfl, _, rfl⟩

theorem EncodedForm.fcDecode (f : List Byte) : EncodedForm.Statement (.fcDecode f) := ⟨rfl, _, rfl⟩

theorem EncodedForm.tcChecksum (payload : List Byte) : EncodedForm.Statement (.tcChecksum payload) := ⟨rfl, _, rfl⟩

theorem EncodedForm.tcAppend (payload : List Byte) : EncodedForm.Statement (.tcAppend payload) := ⟨rfl, _, rfl⟩

theorem EncodedForm.tcValidate (x : List Byte) (expectedLength : Nat) :
    EncodedForm.Statement (.tcValidate x expectedLength) := ⟨rfl, _, rfl⟩

end Sys2Proof.Laws
end

