-- ==== Sys2Proof/Laws/Waits.lean ====
section
/-!
SUPPORT. All that a step of a wait phase can do when it answers a next state (42_session.md R105 to R112, R114), and how
a run goes on by one step.
-/
namespace Sys2Proof.Machine

variable {s t : State}

/-- `TC_VALIDATE` of a sequence of the expected length: it is its own payload with the checksum appended, or it is
refused (41_track_codec.md R95, R98). -/
theorem tcValidate_cases (x : List Byte) (e : Nat) (h : x.length = e + 2) :
    (∃ p, x = tcAppend p ∧ p.length = e ∧ tcValidate x e = .ok p) ∨
    (∀ p, x ≠ tcAppend p) ∧ tcValidate x e = .checksumInvalid := by
  by_cases hc : rd16 x e = cksum16 (x.take e)
  · have hx : x = tcAppend (x.take e) := by rw [tcAppend, ← hc, le16_rd16_last x e h, List.take_append_drop]
    exact .inl ⟨x.take e, hx, by simp; omega, by simp [tcValidate, h, hc]⟩
  · refine .inr ⟨?_, by simp [tcValidate, h, hc]⟩
    rintro p rfl
    obtain rfl : p.length = e := by simpa using h
    apply hc
    rw [tcAppend, rd16_drop, List.drop_left, List.take_left]
    exact rd16_le16 _ []

/-- No track is longer than the buffer allows for (R9). -/
theorem trackLen_le (g : Geometry) : g.trackLen ≤ 4384 := by cases g <;> decide

/-- A frame wait: an error, no bytes, bytes that are collected, an invalid frame that is dropped, or a valid frame that
is judged. -/
theorem step_frameWait_next (hw : s.phase = .awaitFrame ∨ s.phase = .awaitWsta) (h : step s = .next t) :
    ∃ a c, s.chan.read (10 - s.fn) .frame = (a, c) ∧
      (a = .ioError ∧ t = (s.setChan c).finish .ioError ∨
       a = .bytes [] ∧ t = (s.setChan c).finish .timeout ∨
       ∃ v, a = .bytes v ∧ v ≠ [] ∧ s.fn + v.length ≤ 10 ∧
        (s.fn + v.length < 10 ∧ t = (s.setChan c).pushFrame v ∨
         s.fn + v.length = 10 ∧ fcDecode ((s.setChan c).pushFrame v).fb.toList = .checksumInvalid ∧
          t = ((s.setChan c).pushFrame v).clearFrame ∨
         s.fn + v.length = 10 ∧ ∃ tag rc rd, fcDecode ((s.setChan c).pushFrame v).fb.toList = .ok tag rc rd ∧
          (s.phase = .awaitFrame ∧ s.kind = .stat ∧
            t = ((s.setChan c).pushFrame v).finish (statVerdict tag rd) ∨
           s.phase = .awaitFrame ∧ s.kind = .writ ∧ tag = tagWrit ∧ rc = 0 ∧
            t = ((s.setChan c).pushFrame v).setPhase .readyToSend ∨
           s.phase = .awaitFrame ∧ s.kind = .writ ∧
            (∃ o, ackVerdict tag rc = some o ∧ t = ((s.setChan c).pushFrame v).finish o) ∨
           s.phase = .awaitWsta ∧ t = ((s.setChan c).pushFrame v).finish (finalVerdict tag rc)))) := by
  rw [step_frameWait hw] at h
  refine ⟨(s.chan.read (10 - s.fn) .frame).1, (s.chan.read (10 - s.fn) .frame).2, rfl, ?_⟩
  rcases frameAttempt_cases s with ⟨h1, h2⟩ | ⟨h1, h2⟩ | ⟨v, h1, h2, h3, h4⟩
  · rw [h2] at h; exact .inl ⟨h1, (Host.Outcome.next.inj h).symm⟩
  · rw [h2] at h; exact .inr (.inl ⟨h1, (Host.Outcome.next.inj h).symm⟩)
  · refine .inr (.inr ⟨v, h1, h2, h3, ?_⟩)
    rw [h4] at h
    by_cases hn : s.fn + v.length = Config.frameLen
    · rw [if_pos hn] at h
      simp only at h
      cases hd : fcDecode ((s.setChan (s.chan.read (Config.frameLen - s.fn) .frame).2).pushFrame v).fb.toList with
      | checksumInvalid => simp only [hd] at h; exact .inr (.inl ⟨hn, rfl, (Host.Outcome.next.inj h).symm⟩)
      | ok tag rc rd =>
        simp only [hd] at h
        refine .inr (.inr ⟨hn, tag, rc, rd, rfl, ?_⟩)
        rcases arbitrate_next h with ⟨h5, h6, h7⟩ | ⟨h5, h6, h7⟩ | ⟨h5, h7⟩
        · exact .inl ⟨h5, h6, h7⟩
        · rcases acknowledge_cases tag rc ((s.setChan (s.chan.read (Config.frameLen - s.fn) .frame).2).pushFrame v) with ⟨q1, q2, q3⟩ | ⟨o, q1, q2⟩
          · exact .inr (.inl ⟨h5, h6, q1, q2, h7.trans q3⟩)
          · exact .inr (.inr (.inl ⟨h5, h6, o, q1, h7.trans q2⟩))
        · exact .inr (.inr (.inr ⟨h5, h7⟩))
    · rw [if_neg hn] at h
      exact .inl ⟨by simp only [Config.frameLen] at hn h3; omega, (Host.Outcome.next.inj h).symm⟩

/-- The payload wait: an error, no bytes, bytes that are collected, or a complete payload that is validated. -/
theorem step_payload_next (hw : s.phase = .awaitPayload) (h : step s = .next t) :
    ∃ a c, s.chan.read (s.L + 2 - s.tn) .chunk = (a, c) ∧
      (a = .ioError ∧ t = (s.setChan c).finish .ioError ∨
       a = .bytes [] ∧ t = (s.setChan c).finish (.partialData s.tn) ∨
       ∃ v, a = .bytes v ∧ v ≠ [] ∧ s.tn + v.length ≤ s.L + 2 ∧
        (s.tn + v.length < s.L + 2 ∧ t = (s.setChan c).pushTrack v ∨
         s.tn + v.length = s.L + 2 ∧
          ((∃ p, p.length = s.L ∧ t = ((s.setChan c).pushTrack v).finish (.readOk (s.L + 2) p)) ∨
           t = ((s.setChan c).pushTrack v).finish (.readChecksumInvalid (s.L + 2))))) := by
  rw [step_payload hw] at h
  refine ⟨(s.chan.read (s.L + 2 - s.tn) .chunk).1, (s.chan.read (s.L + 2 - s.tn) .chunk).2, rfl, ?_⟩
  rcases payloadStep_cases s with ⟨h1, h2⟩ | ⟨h1, h2⟩ | ⟨v, h1, h2, h3, h4⟩
  · rw [h2] at h; exact .inl ⟨h1, (Host.Outcome.next.inj h).symm⟩
  · rw [h2] at h; exact .inr (.inl ⟨h1, (Host.Outcome.next.inj h).symm⟩)
  · refine .inr (.inr ⟨v, h1, h2, h3, ?_⟩)
    rw [h4] at h
    by_cases hn : s.tn + v.length = s.L + 2
    · rw [if_pos hn] at h
      refine .inr ⟨hn, ?_⟩
      have hg := trackLen_le s.len
      have hL : s.L = s.len.trackLen := rfl
      simp only [checkPayload] at h
      rcases tcValidate_cases (memRead (((s.setChan (s.chan.read (s.L + 2 - s.tn) .chunk).2).pushTrack v).tb) 0 (s.L+2)) s.L (by simp; omega) with ⟨p, q1, q2, q3⟩ | ⟨q1, q3⟩
      · left; refine ⟨p, q2, ?_⟩
        simp only [State.pushTrack_L, State.setChan_L, q3, payloadVerdict] at h
        exact (Host.Outcome.next.inj h).symm
      · right
        simp only [State.pushTrack_L, State.setChan_L, q3, payloadVerdict] at h
        exact (Host.Outcome.next.inj h).symm
    · rw [if_neg hn] at h
      exact .inl ⟨by omega, (Host.Outcome.next.inj h).symm⟩

/-! ### Runs -/

/-- The same for any machine behind the host's interface. -/
theorem run_succ_of_next (M : Host.Core) (k : Nat) (s t : M.State) (h : M.step s = .next t) :
    M.run (k + 1) s = M.run k t := by
  simp only [Host.Core.run, h]

/-- A run goes on from the state its first step answers. -/
theorem run_succ_of_step (k : Nat) (h : step s = .next t) : Host.Core.run core (k + 1) s = Host.Core.run core k t :=
  run_succ_of_next core k s t h

end Sys2Proof.Machine
end

