-- ==== Sys2Proof/Tests/Slice0.lean ====
section
/-!
SUPPORT. The model's own tests: well-formedness, decoding of words written out from the spec's encodings, one or two steps
for each instruction, and a witness for the hypotheses of every statement. Expected values come from 95_test_vectors.md
(its table or program is named at each test) or from the rule named there, calculated by hand.
-/
namespace Sys2Proof.Tests

open Sys2Proof.Machine

/-! ## Well-formedness -/

/-- 30_encoding.md R77: a term outside an argument type is refused by the check, one for each check; the value at the
edge inside is not. -/
theorem test_wf_arguments :
    (Instr.exRead 4096 .mini).wf = false ∧ (Instr.exRead 4095 .mini).wf = true ∧
    (Instr.exWrit 4096 .mini (List.replicate 2192 0)).wf = false ∧
    (Instr.dsSelect (some 4)).wf = false ∧ (Instr.dsSelect (some 3)).wf = true ∧ (Instr.dsSelect none).wf = true ∧
    (Instr.dsHead 4 true).wf = false ∧ (Instr.dsHead 3 true).wf = true ∧
    (Instr.fcEncode [0x53, 0x54, 0x41] 0 0).wf = false ∧ (Instr.fcDecode [0x53]).wf = false := by decide

/-- R76, R77: the data of a WRIT has the length of its geometry. -/
theorem test_wf_data :
    (Instr.exWrit 0 .mini (List.replicate 2191 0)).wf = false ∧
    (Instr.exWrit 0 .mini (List.replicate 2192 0)).wf = true ∧
    (Instr.exWrit 0 .eightInch (List.replicate 2192 0)).wf = false := by decide +kernel

/-- R70: the drive nibble is 0 to 3 and `param2` is a track length. -/
theorem test_wf_requests :
    (Instr.reqRead 0 4 0x1120).wf = false ∧ (Instr.reqRead 0 0 0x1121).wf = false ∧
    (Instr.reqWrit 0 4 0x0890).wf = false ∧ (Instr.reqWrit 0 0 0).wf = false ∧
    (Instr.reqRead 0 3 0x1120).wf = true ∧ (Instr.reqWrit 0 3 0x0890).wf = true := by decide

/-! ## Decoding -/

/-- V-FC: `53 54 41 54 03 0F 00 00 4E 01`, drive 3 and all heads; and a set bit 15 of `param1` is no STAT request. -/
theorem test_decode_reqStat :
    decode .request [0x53, 0x54, 0x41, 0x54, 0x03, 0x0F, 0x00, 0x00, 0x4E, 0x01] = .ok (.reqStat 3 0xF) ∧
    decode .request [0x53, 0x54, 0x41, 0x54, 0xFF, 0xFF, 0xFF, 0xFF, 0x38, 0x05] = .error .reservedBits := by decide

/-- V-FC: drive 3, track 4095, the largest; and a mini track. -/
theorem test_decode_reqRead :
    decode .request [0x52, 0x45, 0x41, 0x44, 0xFF, 0x3F, 0x20, 0x11, 0x8B, 0x02] = .ok (.reqRead 4095 3 4384) ∧
    decode .request [0x52, 0x45, 0x41, 0x44, 0x03, 0x10, 0x90, 0x08, 0xC7, 0x01] = .ok (.reqRead 3 1 2192) := by decide

/-- V-FC: drive 3, track 76; and a frame tagged `WSTA` is no request. -/
theorem test_decode_reqWrit :
    decode .request [0x57, 0x52, 0x49, 0x54, 0x4C, 0x30, 0x20, 0x11, 0xF3, 0x01] = .ok (.reqWrit 76 3 4384) ∧
    decode .request [0x57, 0x53, 0x54, 0x41, 0x00, 0x00, 0x00, 0x00, 0x3F, 0x01] = .error (.unknownTag tagWsta) := by decide

/-- V-SES: a STAT response whose `rcode` is 7. -/
theorem test_decode_rspStat :
    decode .response [0x53, 0x54, 0x41, 0x54, 0x07, 0x00, 0x05, 0x00, 0x48, 0x01] = .ok (.rspStat 7 5) := by decide

/-- V-FC: Checksum Error; and the first frame of P4 is invalid. -/
theorem test_decode_rspWrit :
    decode .response [0x57, 0x52, 0x49, 0x54, 0x02, 0x00, 0x00, 0x00, 0x48, 0x01] = .ok (.rspWrit 2 0) ∧
    decode .response [0x57, 0x52, 0x49, 0x54, 0x00, 0x00, 0x00, 0x00, 0x47, 0x01] = .error .checksumInvalid := by decide

/-- V-FC: a final status of Write Error; and READ has no response frame (R68). -/
theorem test_decode_rspWsta :
    decode .response [0x57, 0x53, 0x54, 0x41, 0x03, 0x00, 0x00, 0x00, 0x42, 0x01] = .ok (.rspWsta 3 0) ∧
    decode .response [0x52, 0x45, 0x41, 0x44, 0x00, 0x00, 0x90, 0x08, 0xB4, 0x01] = .error (.unknownTag tagRead) := by
  decide

/-- R76 and assumption 4: the exchange operations; P2 reads track 3 of a mini disk. -/
theorem test_decode_exchange :
    decode .host [0x01] = .ok .exStat ∧ decode .host [0x02, 0x03, 0x00, 0x01] = .ok (.exRead 3 .mini) ∧
    decode .host [0x02, 0x00, 0x10, 0x00] = .ok (.exRead 4096 .eightInch) ∧
    decode .host [0x03, 0x4C, 0x00, 0x00, 0xAA, 0xBB] = .ok (.exWrit 76 .eightInch [0xAA, 0xBB]) ∧
    decode .host [0x02, 0x03, 0x00, 0x02] = .error (.badGeometry 2) ∧ decode .host [0x01, 0x00] = .error .badLength := by
  decide

/-- R76 and assumption 4: the Drive State operations of V-DS. -/
theorem test_decode_drive :
    decode .host [0x10, 0x00, 0x02] = .ok (.dsSelect (some 2)) ∧ decode .host [0x10, 0x01] = .ok (.dsSelect none) ∧
    decode .host [0x11, 0x02, 0x01] = .ok (.dsHead 2 true) ∧ decode .host [0x11, 0x05, 0x00] = .ok (.dsHead 5 false) ∧
    decode .host [0x12] = .ok .dsHeadmap ∧ decode .host [0x11, 0x02, 0x02] = .error (.badChoice 2) ∧
    decode .host [0x10, 0x01, 0x00] = .error (.badChoice 1) := by decide

/-- R76 and assumption 4: the codec operations, and a number that is no operation. -/
theorem test_decode_codec :
    decode .host [0x20, 0x02, 0x04, 0x34, 0x12, 0x53, 0x54, 0x41, 0x54] =
      .ok (.fcEncode [0x53, 0x54, 0x41, 0x54] 0x0402 0x1234) ∧
    decode .host [0x21, 0xAA] = .ok (.fcDecode [0xAA]) ∧ decode .host [0x30, 0xFF] = .ok (.tcChecksum [0xFF]) ∧
    decode .host [0x31] = .ok (.tcAppend []) ∧
    decode .host [0x32, 0x82, 0x02, 0x01] = .ok (.tcValidate [0x01] 258) ∧
    decode .host [0x00] = .error (.unknownOp 0) ∧ decode .host [] = .error .empty := by decide

/-- spec/opcode_table.json: every row's word decodes to the row, with operand words of zeros. The table has one word for
REQ_STAT and RSP_STAT and one for REQ_WRIT and RSP_WRIT (assumption 5). -/
theorem test_decode_table :
    decodeTableWord 32 0x53544154 = some (.rspStat 0 0) ∧ decodeTableWord 32 0x52454144 = some (.reqRead 0 0 0) ∧
    decodeTableWord 32 0x57524954 = some (.rspWrit 0 0) ∧ decodeTableWord 32 0x57535441 = some (.rspWsta 0 0) ∧
    decodeTableWord 8 0x01 = some .exStat ∧ decodeTableWord 8 0x02 = some (.exRead 0 .eightInch) ∧
    decodeTableWord 8 0x10 = some (.dsSelect (some 0)) ∧ decodeTableWord 8 0x11 = some (.dsHead 0 false) ∧
    decodeTableWord 8 0x12 = some .dsHeadmap ∧ decodeTableWord 8 0x20 = some (.fcEncode [0, 0, 0, 0] 0 0) ∧
    decodeTableWord 8 0x21 = some (.fcDecode (List.replicate 10 0)) ∧ decodeTableWord 8 0x30 = some (.tcChecksum []) ∧
    decodeTableWord 8 0x31 = some (.tcAppend []) ∧ decodeTableWord 8 0x32 = some (.tcValidate [] 0) ∧
    decodeTableWord 8 0x04 = none := by decide

/-- The word of EX_WRIT is followed by a track of zeros. -/
theorem test_decode_table_exWrit :
    decodeTableWord 8 0x03 = some (.exWrit 0 .eightInch (List.replicate 4384 0)) := by rfl

/-! ## States to test on -/

/-- The state of a result that is one. -/
def nextOf : StepResult → Option State
  | .next t => some t
  | .fault _ => none
  | .refused _ => none

/-- Idle, with a selected drive. -/
def idle (sel : Option (Fin 4)) : State := { State.reset with sel := sel }

/-- `SEND_CMD` with a command frame and the Channel's answer to the write. -/
def sending (k : Kind) (frame : List Byte) (a : WriteAnswer) : State :=
  { State.reset with
    phase := .sendCmd
    kind := k
    cmd := memWrite State.reset.cmd 0 frame
    chan := { Channel.reset with outbound := [a] } }

/-- A frame wait with the bytes collected so far and the Channel's answers. -/
def waiting (p : Phase) (k : Kind) (got : List Byte) (answers : List ReadAnswer) : State :=
  { State.reset with
    phase := p
    kind := k
    fb := memWrite State.reset.fb 0 got
    fn := got.length
    chan := { Channel.reset with inbound := answers } }

/-- The payload wait of a mini READ. -/
def paying (got : List Byte) (a : ReadAnswer) : State :=
  { State.reset with
    phase := .awaitPayload
    kind := .read
    len := .mini
    tb := memWrite State.reset.tb 0 got
    tn := got.length
    chan := { Channel.reset with inbound := [a] } }

/-- `READY_TO_SEND` with a mini payload of bytes `01`. -/
def ready (a : WriteAnswer) : State :=
  { State.reset with
    phase := .readyToSend
    kind := .writ
    len := .mini
    tb := memWrite State.reset.tb 0 (List.replicate 2192 0x01)
    chan := { Channel.reset with outbound := [a] } }

/-- The command frames of programs P1, P7 and P4. -/
def statFrame : List Byte := [0x53, 0x54, 0x41, 0x54, 0x02, 0x04, 0x00, 0x00, 0x42, 0x01]
def readFrame : List Byte := [0x52, 0x45, 0x41, 0x44, 0x00, 0x10, 0x20, 0x11, 0x5D, 0x01]
def writFrame : List Byte := [0x57, 0x52, 0x49, 0x54, 0x00, 0x30, 0x90, 0x08, 0x0E, 0x02]

/-- Response frames: mount bitmap 5, an OK acknowledgement, an OK final status, and the invalid frame of P11. -/
def mountFrame : List Byte := [0x53, 0x54, 0x41, 0x54, 0x00, 0x00, 0x05, 0x00, 0x41, 0x01]
def ackFrame : List Byte := [0x57, 0x52, 0x49, 0x54, 0x00, 0x00, 0x00, 0x00, 0x46, 0x01]
def wstaFrame : List Byte := [0x57, 0x53, 0x54, 0x41, 0x00, 0x00, 0x00, 0x00, 0x3F, 0x01]
def badFrame : List Byte := [0x53, 0x54, 0x41, 0x54, 0x00, 0x00, 0x00, 0x00, 0x3D, 0x01]

/-! ## Codecs -/

/-- V-FC: a frame with a carry into byte 9, and the largest frame sum of W2. -/
theorem test_fcEncode :
    exec (.fcEncode [0x57, 0x53, 0x54, 0x41] 0xFFFF 0xFFFF) State.reset =
      .next (State.reset.respond (.bytes [0x57, 0x53, 0x54, 0x41, 0xFF, 0xFF, 0xFF, 0xFF, 0x3B, 0x05])) := by rfl

/-- V-FC: the largest sum of all is valid; a flip in the checksum is not. -/
theorem test_fcDecode :
    fcDecode [0xFF, 0xFF, 0xFF, 0xFF, 0xFF, 0xFF, 0xFF, 0xFF, 0xF8, 0x07] = .ok ⟨0xFF, 0xFF, 0xFF, 0xFF⟩ 0xFFFF 0xFFFF ∧
    fcDecode [0x54, 0x53, 0x41, 0x54, 0x02, 0x04, 0x00, 0x00, 0x42, 0x01] = .ok ⟨0x54, 0x53, 0x41, 0x54⟩ 0x0402 0 ∧
    fcDecode [0x53, 0x54, 0x41, 0x54, 0x02, 0x04, 0x00, 0x00, 0x42, 0x00] = .checksumInvalid := by decide

/-- V-TC: the wrap at 65536, and a sum that has wrapped 17 times. -/
theorem test_tcChecksum :
    tcChecksum (List.replicate 257 0xFF ++ [0x01]) = 0x0000 ∧ tcChecksum (List.replicate 4384 0xFF) = 0x0EE0 := by
  decide +kernel

/-- V-TC: the low byte of the checksum comes first. -/
theorem test_tcAppend : tcAppend (List.replicate 2192 0x01) = List.replicate 2192 0x01 ++ [0x90, 0x08] := by
  decide +kernel

/-- V-TC: the length decides before the checksum (W4), and a swap of bytes is not detected. -/
theorem test_tcValidate :
    tcValidate [0x01, 0x02, 0x03, 0x00] 3 = .lengthMismatch ∧ tcValidate [0x01, 0x02, 0x03, 0x00] 2 = .ok [0x01, 0x02] ∧
    tcValidate [0x02, 0x01, 0x03, 0x00] 2 = .ok [0x02, 0x01] ∧ tcValidate [0x01, 0x00] 0 = .checksumInvalid := by decide

/-! ## The Drive State -/

/-- V-DS: drive 2 becomes selected and no head moves; drive 4 is refused. -/
theorem test_dsSelect :
    (nextOf (exec (.dsSelect (some 2)) State.reset)).map (fun t => (t.sel, t.head)) =
      some (some 2, #v[false, false, false, false]) ∧
    exec (.dsSelect (some 4)) State.reset = .refused (.illTyped .driveIndex) := ⟨by decide, by rfl⟩

/-- V-DS: head 2 is loaded beside head 0, whichever drive is selected. -/
theorem test_dsHead :
    (nextOf (exec (.dsHead 2 true) { idle (some 1) with head := #v[true, false, false, false] })).map
      (fun t => (t.sel, t.head)) = some (some 1, #v[true, false, true, false]) := by decide

/-- V-DS: heads 0 and 2 loaded are `0x0005`. -/
theorem test_dsHeadmap :
    (nextOf (exec .dsHeadmap { State.reset with head := #v[true, false, true, false] })).map (·.ret) =
      some (some (.word 0x0005)) := by decide

/-! ## Exchanges -/

/-- V-SES, W7: with drive 2 selected and head 2 loaded, the STAT request is the corrected frame of W7. -/
theorem test_exStat :
    (nextOf (exec .exStat { idle (some 2) with head := #v[false, false, true, false] })).map
      (fun t => (t.cmd.toList, t.phase, t.kind)) = some (statFrame, .sendCmd, .stat) := by decide

/-- V-SES: track 77 of an 8-inch disk is accepted; without a drive the outcome is `InvalidDrive`. -/
theorem test_exRead :
    (nextOf (exec (.exRead 77 .eightInch) (idle (some 1)))).map (fun t => (t.cmd.toList, t.L, t.phase)) =
      some ([0x52, 0x45, 0x41, 0x44, 0x4D, 0x10, 0x20, 0x11, 0xAA, 0x01], 4384, .sendCmd) ∧
    (nextOf (exec (.exRead 5 .eightInch) State.reset)).map (fun t => (t.out, t.phase)) = some (.invalidDrive, .done) := by
  decide

/-- P9: the command frame, and the payload in `TB`. -/
theorem test_exWrit :
    (nextOf (exec (.exWrit 1 .mini (List.replicate 2192 0x01)) (idle (some 2)))).map
      (fun t => (t.cmd.toList, memRead t.tb 2190 4, t.phase)) =
      some ([0x57, 0x52, 0x49, 0x54, 0x01, 0x20, 0x90, 0x08, 0xFF, 0x01], [0x01, 0x01, 0x00, 0x00], .sendCmd) := by
  decide +kernel

/-- V-SES: ten bytes written begin the wait; nine end STAT with `IoError`. -/
theorem test_reqStat :
    (nextOf (step (sending .stat statFrame (.written 10)))).map (fun t => (t.phase, t.chan.log)) =
      some (.awaitFrame, [.write statFrame (.written 10)]) ∧
    (nextOf (step (sending .stat statFrame (.written 9)))).map (fun t => (t.phase, t.out)) = some (.done, .ioError) := by
  decide

/-- R104: READ waits for its payload at once. -/
theorem test_reqRead :
    (nextOf (step (sending .read readFrame (.written 10)))).map (fun t => (t.phase, t.tn)) = some (.awaitPayload, 0) := by
  decide

/-- R104: WRIT waits for its acknowledgement; a failed write is `IoError`. -/
theorem test_reqWrit :
    (nextOf (step (sending .writ writFrame (.written 10)))).map (·.phase) = some .awaitFrame ∧
    (nextOf (step (sending .writ writFrame .ioError))).map (·.out) = some .ioError := by decide

/-- P1: the response comes in two parts. -/
theorem test_rspStat :
    (nextOf (step (waiting .awaitFrame .stat [0x53, 0x54, 0x41, 0x54, 0x00, 0x00] [.bytes [0x05, 0x00, 0x41, 0x01]]))).map
      (fun t => (t.out, t.phase)) = some (.statOk 0x0005, .done) := by decide

/-- V-SES: the acknowledgement lets the payload go; in the WSTA wait the same frame is a tag mismatch. -/
theorem test_rspWrit :
    (nextOf (step (waiting .awaitFrame .writ [] [.bytes ackFrame]))).map (·.phase) = some .readyToSend ∧
    (nextOf (step (waiting .awaitWsta .writ [] [.bytes ackFrame]))).map (·.out) =
      some (.tagMismatch tagWsta tagWrit) := by decide

/-- V-SES: the final status, and an unknown code kept verbatim. -/
theorem test_rspWsta :
    (nextOf (step (waiting .awaitWsta .writ [] [.bytes wstaFrame]))).map (·.out) = some .writOk ∧
    (nextOf (step (waiting .awaitWsta .writ []
      [.bytes [0x57, 0x53, 0x54, 0x41, 0x34, 0x12, 0x00, 0x00, 0x85, 0x01]]))).map (·.out) =
      some (.remoteRefusal .final 0x1234) := by decide

/-- P11 and V-SES: an invalid frame is ignored; seven bytes and then none are a time-out. -/
theorem test_frame_wait :
    (nextOf (step (waiting .awaitFrame .stat [] [.bytes badFrame]))).map (fun t => (t.phase, t.fn, t.out)) =
      some (.awaitFrame, 0, .noOutcome) ∧
    (nextOf (step (waiting .awaitFrame .stat [0x53, 0x54, 0x41, 0x54, 0x00, 0x00, 0x03] [.bytes []]))).map (·.out) =
      some .timeout := by decide

/-- R108: a frame with the right tag and a refusal; the tag decides before the code (V-SES). -/
theorem test_ack_refused :
    (nextOf (step (waiting .awaitFrame .writ []
      [.bytes [0x57, 0x52, 0x49, 0x54, 0x07, 0x00, 0x00, 0x00, 0x4D, 0x01]]))).map (·.out) =
      some (.remoteRefusal .ack 0x0007) ∧
    (nextOf (step (waiting .awaitFrame .writ [] [.bytes wstaFrame]))).map (·.out) =
      some (.tagMismatch tagWrit tagWsta) := by decide

/-- P2: the last chunk completes a valid payload. -/
theorem test_payload_ok :
    (nextOf (step (paying (List.replicate 2000 0x01) (.bytes (List.replicate 192 0x01 ++ [0x90, 0x08]))))).map (·.out) =
      some (.readOk 2194 (List.replicate 2192 0x01)) := by decide +kernel

/-- V-SES: one byte short and then none is `PartialData(2193)`; a wrong checksum is `ReadChecksumInvalid(2194)`. -/
theorem test_payload_bad :
    (nextOf (step (paying (List.replicate 2193 0x01) (.bytes [])))).map (·.out) = some (.partialData 2193) ∧
    (nextOf (step (paying (List.replicate 2192 0x01) (.bytes [0x90, 0x09])))).map (·.out) =
      some (.readChecksumInvalid 2194) := by decide +kernel

/-- P9 and V-SES: the payload goes out with its checksum; a short write is `IoError`. -/
theorem test_payload_write :
    (nextOf (step (ready (.written 2194)))).map (fun t => (t.phase, t.chan.log)) =
      some (.awaitWsta, [.write (List.replicate 2192 0x01 ++ [0x90, 0x08]) (.written 2194)]) ∧
    (nextOf (step (ready (.written 100)))).map (·.out) = some .ioError := by decide +kernel

/-- R116: the outcome goes to the Host and the engine is idle. -/
theorem test_done :
    (nextOf (step { State.reset with phase := .done, out := .timeout })).map (fun t => (t.ret, t.phase)) =
      some (some (.outcome .timeout), .idle) := by decide

/-- R77, R15: a refused operation is no next state, also through the fetch. -/
theorem test_refusals :
    exec (.exRead 4096 .mini) (idle (some 1)) = .refused (.illTyped .trackNumber) ∧
    step { State.reset with pending := [[0x02, 0x00, 0x00, 0x02]] } = .refused (.undecodable (.badGeometry 2)) ∧
    exec .exStat (waiting .awaitFrame .stat [] []) = .refused .hostBlocked := ⟨by rfl, by rfl, by rfl⟩

/-- The very next step runs the placed word: a frame of each direction and a host operation (assumption 5). -/
theorem test_withFetchWord :
    (nextOf (step (State.reset.withFetchWord 32 0x57535441))).map (·.out) = some .writOk ∧
    (nextOf (step (State.reset.withFetchWord 8 0x12))).map (·.ret) = some (some (.word 0)) ∧
    (State.reset.withFetchWord 32 0x52454144).phase = .sendCmd ∧ (State.reset.withFetchWord 32 0x52454144).kind = .read := by
  decide

/-! ## Witnesses

For each statement with hypotheses, a concrete case of each clause that meets them; a clause with a range has it at a
boundary. -/

theorem test_witness_BufferWriteReadsBack :
    8 + [0x01, (0x02 : Byte)].length ≤ 10 ∧ (7 < 8 ∨ 8 + [0x01, (0x02 : Byte)].length ≤ 7) ∧
    (1 < 0 ∨ 0 + [(0x01 : Byte)].length ≤ 1) := by decide

/-- An answer beyond what was offered or asked for stands for all of it: the Channel's answers stay within the contract. -/
theorem test_witness_ChannelAnswersWithinContract :
    ({ Channel.reset with outbound := [.written 11] }.write statFrame).1 = .written 10 ∧
    ({ Channel.reset with inbound := [.bytes [1, 2, 3]] }.read 2 .chunk).1 = .bytes [1, 2] ∧
    (∀ k, WriteAnswer.written 10 = .written k → k ≤ statFrame.length) ∧
    (∀ r, ReadAnswer.bytes [1, 2] = .bytes r → r.length ≤ 2) := by
  refine ⟨by decide, by decide, ?_, ?_⟩
  · rintro k ⟨⟩; decide
  · rintro r ⟨⟩; decide

theorem test_witness_UnreadBytesStayFirst :
    ({ Channel.reset with inbound := [.bytes [1, 2, 3], .ioError] } : Channel).inbound = .bytes [1, 2, 3] :: [.ioError] ∧
    2 < [1, 2, (3 : Byte)].length := by decide

theorem test_witness_DecodeEncodeRoundTrip :
    (Instr.reqWrit 4095 3 0x0890).wf = true ∧ (Instr.rspWsta 0xFFFF 0xFFFF).wf = true ∧ (Instr.dsHead 3 true).wf = true := by
  decide

theorem test_witness_FramesHaveOneMeaning :
    decode .request statFrame = .ok (.reqStat 2 4) ∧ decode .response mountFrame = .ok (.rspStat 0 5) := by decide

/-- The hypotheses of the statements about the two codecs. -/
theorem test_witness_codecs :
    State.reset.phase = .idle ∧ [0x53, 0x54, (0x41 : Byte)].length ≠ 4 ∧ ([] : List Byte).length ≠ 10 ∧
    (List.replicate 8 (0 : Byte) ++ [0xF9, 0x07]).length = 10 ∧
    2041 ≤ (rd16 (List.replicate 8 0 ++ [0xF9, 0x07]) 8).toNat ∧ [0x00, (0x01 : Byte)].length ≠ 1 + 2 ∧
    [0x01, 0x02, 0x03, (0x00 : Byte)].length = 2 + 2 ∧ (List.replicate 10 (0xFF : Byte)).length = 10 := by decide

theorem test_witness_FrameCodecLaws :
    statFrame.length = 10 ∧ 9 < statFrame.length ∧ 7 < 8 ∧ frameValid statFrame = true ∧
    ([0x54, 0x53, 0x41, 0x54, 0x02, 0x04, 0x00, 0x00, 0x42, 0x01] : List Byte).length = 10 ∧
    (statFrame.take 8).Perm (([0x54, 0x53, 0x41, 0x54, 0x02, 0x04, 0x00, 0x00, 0x42, 0x01] : List Byte).take 8) ∧
    statFrame.drop 8 = ([0x54, 0x53, 0x41, 0x54, 0x02, 0x04, 0x00, 0x00, 0x42, 0x01] : List Byte).drop 8 := by decide

theorem test_witness_TrackChecksumBlindSpots :
    byteSum (List.replicate 257 0xFF ++ [0x01]) % 65536 = 0 ∧ [0x02, (0x01 : Byte)].length = [0x01, (0x02 : Byte)].length ∧
    byteSum [0x02, 0x01] % 65536 = byteSum [0x01, 0x02] % 65536 := by decide +kernel

theorem test_witness_permutation : [0x01, (0x02 : Byte)].Perm [0x02, 0x01] := by decide

/-- The hypotheses of the statements about the Drive State, each index at its boundary. -/
theorem test_witness_drive :
    (idle (some 3)).phase = .idle ∧ (3 : Fin 4) ≠ 2 ∧ 4 ≤ 4 ∧ State.reset.head = Vector.replicate 4 false ∧
    State.reset.head = #v[false, false, false, false] ∧
    ({ State.reset with head := #v[false, false, true, false] } : State).head = #v[false, false, true, false] := by decide

/-- A step that changes `HEAD`, and one that changes `SEL`. -/
theorem test_witness_OnlyDriveOpsWriteDriveState :
    (∃ t, step { State.reset with pending := [[0x11, 0x02, 0x01]] } = .next t ∧ t.head ≠ State.reset.head) ∧
    (∃ t, step { State.reset with pending := [[0x10, 0x00, 0x02]] } = .next t ∧ t.sel ≠ State.reset.sel) :=
  ⟨⟨_, rfl, by decide⟩, ⟨_, rfl, by decide⟩⟩

/-- The hypotheses of the accept statements: the largest track, no drive and drive 3, a track of data. -/
theorem test_witness_accepts :
    (idle none).phase = .idle ∧ (idle none).sel = none ∧ (idle (some 3)).phase = .idle ∧ (idle (some 3)).sel = some 3 ∧
    4095 < 4096 ∧ (List.replicate 2192 (0 : Byte)).length = Geometry.mini.trackLen := by decide +kernel

theorem test_witness_IllTypedArgumentsRefused :
    State.reset.phase = .idle ∧ 4096 ≤ 4096 ∧ (0 < 4096 ∧ (List.replicate 2191 (0 : Byte)).length ≠ Geometry.mini.trackLen) ∧
    2 ≤ (2 : Byte).toNat ∧ decode .host [0x12, 0x00] = .error .badLength ∧
    ({ State.reset with pending := [[0x12, 0x00]] } : State).pending = [0x12, 0x00] :: [] := by decide +kernel

/-- A host operation while an exchange is in flight; and a step of one, the last of which gives the Host a result. -/
theorem test_witness_HostWaitsForExchange :
    (ready (.written 2194)).phase ≠ .idle ∧ Instr.dsHeadmap.port = .host ∧
    (∃ t, step { State.reset with phase := .done } = .next t ∧ t.ret ≠ State.reset.ret) :=
  ⟨by decide, rfl, ⟨_, rfl, by decide⟩⟩

theorem test_witness_RequestFramesAreSent :
    (Instr.reqStat 2 4).port = .request ∧ (sending .stat statFrame (.written 10)).phase = .sendCmd ∧
    ((sending .stat statFrame (.written 10)).chan.write (encode (.reqStat 2 4))).1 = .written 10 ∧
    ((sending .stat statFrame (.written 9)).chan.write (encode (.reqStat 2 4))).1 ≠ .written 10 ∧
    State.reset.phase ≠ .sendCmd := by decide

/-- A state in each wait, an acknowledgement of each kind, and a state in none. -/
theorem test_witness_ResponseFramesAreJudged :
    ((waiting .awaitFrame .stat [] []).phase = .awaitFrame ∧ (waiting .awaitFrame .stat [] []).kind = .stat) ∧
    ((waiting .awaitFrame .writ [] []).phase = .awaitFrame ∧ (waiting .awaitFrame .writ [] []).kind = .writ) ∧
    (waiting .awaitWsta .writ [] []).phase = .awaitWsta ∧ (0x0000 : Word) = 0 ∧ (0x0001 : Word) ≠ 0 ∧
    State.reset.phase ≠ .awaitFrame ∧ State.reset.phase ≠ .awaitWsta := by decide

theorem test_witness_StepRunsHostOperation :
    ({ State.reset with pending := [[0x12]] } : State).phase = .idle ∧
    ({ State.reset with pending := [[0x12]] } : State).pending = [0x12] :: [] ∧ decode .host [0x12] = .ok .dsHeadmap ∧
    State.reset.pending = [] := by decide

/-- Also the hypotheses of `SendCmdStepWritesCommand`. -/
theorem test_witness_StepRunsRequestFrame :
    (sending .read readFrame (.written 10)).phase = .sendCmd ∧
    decode .request (sending .read readFrame (.written 10)).cmd.toList = .ok (.reqRead 0 1 4384) ∧
    ((sending .read readFrame (.written 10)).chan.write (sending .read readFrame (.written 10)).cmd.toList).1 =
      .written 10 ∧
    ((sending .read readFrame (.written 9)).chan.write (sending .read readFrame (.written 9)).cmd.toList).1 ≠
      .written 10 := by decide

/-- The last four bytes of a response complete `FB`. -/
theorem test_witness_StepRunsResponseFrame :
    ∃ c, (waiting .awaitFrame .stat (mountFrame.take 6) [.bytes (mountFrame.drop 6)]).chan.read
        (10 - (waiting .awaitFrame .stat (mountFrame.take 6) []).fn) .frame = (.bytes (mountFrame.drop 6), c) ∧
      (waiting .awaitFrame .stat (mountFrame.take 6) []).phase = .awaitFrame ∧ mountFrame.drop 6 ≠ [] ∧
      (waiting .awaitFrame .stat (mountFrame.take 6) []).fn + (mountFrame.drop 6).length = 10 ∧
      decode .response (memRead (waiting .awaitFrame .stat (mountFrame.take 6) []).fb 0 6 ++ mountFrame.drop 6) =
        .ok (.rspStat 0 5) :=
  ⟨_, rfl, by decide, by decide, by decide, by decide⟩

/-- An error, no bytes, and one byte where two are missing. -/
theorem test_witness_FrameReadAttempt :
    (∃ c, (waiting .awaitFrame .stat [] [.ioError]).chan.read (10 - 0) .frame = (.ioError, c)) ∧
    (∃ c, (waiting .awaitWsta .writ [1] [.bytes []]).chan.read (10 - 1) .frame = (.bytes [], c)) ∧
    (∃ c, (waiting .awaitFrame .writ (statFrame.take 8) [.bytes [7]]).chan.read (10 - 8) .frame = (.bytes [7], c)) ∧
    (waiting .awaitFrame .writ (statFrame.take 8) [.bytes [7]]).fn = 8 ∧ [(7 : Byte)] ≠ [] ∧ 8 + [(7 : Byte)].length < 10 :=
  ⟨⟨_, rfl⟩, ⟨_, rfl⟩, ⟨_, rfl⟩, by decide, by decide, by decide⟩

theorem test_witness_InvalidFrameIsIgnored :
    (∃ c, (waiting .awaitFrame .stat [] [.bytes badFrame]).chan.read (10 - 0) .frame = (.bytes badFrame, c)) ∧
    badFrame ≠ [] ∧ 0 + badFrame.length = 10 ∧
    fcDecode (memRead (waiting .awaitFrame .stat [] []).fb 0 0 ++ badFrame) = .checksumInvalid :=
  ⟨⟨_, rfl⟩, by decide, by decide, by decide⟩

/-- A frame of the expected tag in each wait; for the acknowledgement also another tag and another code. -/
theorem test_witness_arbitration :
    (∃ c, (waiting .awaitFrame .stat [] [.bytes mountFrame]).chan.read (10 - 0) .frame = (.bytes mountFrame, c)) ∧
    fcDecode (memRead (waiting .awaitFrame .stat [] []).fb 0 0 ++ mountFrame) = .ok tagStat 0 5 ∧
    (∃ c, (waiting .awaitFrame .writ [] [.bytes ackFrame]).chan.read (10 - 0) .frame = (.bytes ackFrame, c)) ∧
    fcDecode (memRead (waiting .awaitFrame .writ [] []).fb 0 0 ++ ackFrame) = .ok tagWrit 0 0 ∧
    fcDecode [0x57, 0x52, 0x49, 0x54, 0x01, 0x00, 0x00, 0x00, 0x47, 0x01] = .ok tagWrit 1 0 ∧
    fcDecode mountFrame = .ok tagStat 0 5 ∧ tagStat ≠ tagWrit ∧
    (∃ c, (waiting .awaitWsta .writ [] [.bytes wstaFrame]).chan.read (10 - 0) .frame = (.bytes wstaFrame, c)) ∧
    fcDecode (memRead (waiting .awaitWsta .writ [] []).fb 0 0 ++ wstaFrame) = .ok tagWsta 0 0 :=
  ⟨⟨_, rfl⟩, by decide, ⟨_, rfl⟩, by decide, by decide, by decide, by decide, ⟨_, rfl⟩, by decide⟩

/-- An error, no bytes, and bytes that leave one missing. -/
theorem test_witness_PayloadReadAttempt :
    (∃ c, (paying [] .ioError).chan.read ((paying [] .ioError).L + 2 - 0) .chunk = (.ioError, c)) ∧
    (∃ c, (paying [1] (.bytes [])).chan.read ((paying [1] (.bytes [])).L + 2 - 1) .chunk = (.bytes [], c)) ∧
    (∃ c, (paying (List.replicate 2192 1) (.bytes [7])).chan.read 2 .chunk = (.bytes [7], c)) ∧
    (paying (List.replicate 2192 1) (.bytes [7])).L + 2 - (paying (List.replicate 2192 1) (.bytes [7])).tn = 2 ∧
    (paying (List.replicate 2192 1) (.bytes [7])).tn + [(7 : Byte)].length <
      (paying (List.replicate 2192 1) (.bytes [7])).L + 2 :=
  ⟨⟨_, rfl⟩, ⟨_, rfl⟩, ⟨_, rfl⟩, by decide +kernel, by decide +kernel⟩

/-- The last two bytes, with the right checksum; and with another, when no payload fits. -/
theorem test_witness_CompletePayloadIsValidated :
    (∃ c, (paying (List.replicate 2192 1) (.bytes [0x90, 0x08])).chan.read 2 .chunk = (.bytes [0x90, 0x08], c)) ∧
    (paying (List.replicate 2192 1) (.bytes [0x90, 0x08])).tn + [0x90, (0x08 : Byte)].length =
      (paying (List.replicate 2192 1) (.bytes [0x90, 0x08])).L + 2 ∧
    List.replicate 2192 1 ++ [0x90, 0x08] = tcAppend (List.replicate 2192 1) ∧
    (∀ p : List Byte, [0x01, 0x02, 0x04, 0x00] ≠ tcAppend p) := by
  refine ⟨⟨_, rfl⟩, by decide +kernel, by decide +kernel, ?_⟩
  intro p h
  have hl := congrArg List.length h
  rw [tcAppend_length] at hl
  match p, hl with
  | [a, b], _ =>
    obtain ⟨rfl, rfl⟩ : 0x01 = a ∧ 0x02 = b := by
      simp only [tcAppend, List.cons_append, List.cons.injEq] at h
      exact ⟨h.1, h.2.1⟩
    revert h
    decide

theorem test_witness_PayloadIsSentWithChecksum :
    (ready (.written 2194)).phase = .readyToSend ∧
    ((ready (.written 2194)).chan.write (tcAppend (memRead (ready (.written 2194)).tb 0 2192))).1 = .written 2194 ∧
    ((ready .ioError).chan.write (tcAppend (memRead (ready .ioError).tb 0 2192))).1 ≠ .written 2194 ∧
    (ready .ioError).L + 2 = 2194 := by decide +kernel

theorem test_witness_DoneReturnsOutcome : ({ State.reset with phase := .done } : State).phase = .done := by decide

theorem test_witness_ResponseCodesClassified : 0x0004 ≤ (0x0004 : Word).toNat ∧ (0x0001 : Word) ≠ 0x0000 := by decide

/-- A step that writes `OUT`; it is one of the steps of `PhaseTransitions` and `OneTransactionPerStep`. -/
theorem test_witness_OutChangesOnlyAtTheEnd :
    ∃ t, step (waiting .awaitFrame .stat [] [.bytes mountFrame]) = .next t ∧
      t.out ≠ (waiting .awaitFrame .stat [] []).out :=
  ⟨_, rfl, by decide⟩

theorem test_witness_PayloadOnlyAfterOkAck :
    ∃ t, step (waiting .awaitFrame .writ [] [.bytes ackFrame]) = .next t ∧ t.phase = .readyToSend :=
  ⟨_, rfl, by decide⟩

/-- A state of an exchange in flight that meets the invariant, and a step from it (also for
`ExchangeAlwaysHasANextStep`). -/
theorem test_witness_StepKeepsInvariant :
    (sending .stat statFrame (.written 10)).Inv ∧ (sending .stat statFrame (.written 10)).phase ≠ .idle ∧
    ∃ t, step (sending .stat statFrame (.written 10)) = .next t :=
  ⟨by decide, by decide, _, rfl⟩

theorem test_witness_ReadAlwaysEnds :
    (sending .read readFrame (.written 10)).phase = .sendCmd ∧ (sending .read readFrame (.written 10)).kind = .read := by
  decide

theorem test_witness_FrameWaitCanHang :
    (waiting .awaitFrame .stat [] [.bytes badFrame, .bytes badFrame]).phase = .awaitFrame ∧
    (waiting .awaitFrame .stat [] [.bytes badFrame, .bytes badFrame]).fn = 0 ∧ badFrame.length = 10 ∧
    frameValid badFrame = false ∧
    (waiting .awaitFrame .stat [] [.bytes badFrame, .bytes badFrame]).chan.inbound =
      List.replicate 2 (.bytes badFrame) ++ [] := by decide

/-- Two states that differ in a dead register only. -/
theorem test_witness_DeadRegistersUnobservable :
    SameLive State.reset { State.reset with fn := 7, len := .mini } ∧
    State.reset ≠ { State.reset with fn := 7, len := .mini } :=
  ⟨⟨rfl, rfl, rfl, rfl, rfl, rfl, rfl, trivial⟩, fun h => by cases congrArg State.fn h⟩

theorem test_witness_BigStep :
    (idle (some 1)).phase = .idle ∧ (idle (some 1)).pending = [] ∧
    (List.replicate 2192 (0 : Byte)).length = Geometry.mini.trackLen := by decide +kernel

end Sys2Proof.Tests
end

section
/-!
PROOFS of the statements on bytes, buffers and the Channel (00_scope.md R12 to R16): what a word read, a
buffer range and a fixed answer are in general, then the statements from it.
-/
namespace Sys2Proof.Machine

/-! ## Words -/

/-- A word read behind a sequence is the word at the front of what follows it. -/
theorem rd16_append (s t : List Byte) : rd16 (s ++ t) s.length = rd16 t 0 := by
  rw [rd16_drop, List.drop_left]

/-- The two bytes of `LE16` as numbers (R12): the remainder and the quotient by 256. -/
theorem le16_eq (w : Word) : le16 w = [BitVec.ofNat 8 (w.toNat % 256), BitVec.ofNat 8 (w.toNat / 256)] := by
  have hlow : w.extractLsb' 0 8 = BitVec.ofNat 8 (w.toNat % 256) := by
    apply BitVec.eq_of_toNat_eq
    simp [BitVec.extractLsb'_toNat]
  have hhigh : w.extractLsb' 8 8 = BitVec.ofNat 8 (w.toNat / 256) := by
    apply BitVec.eq_of_toNat_eq
    simp [BitVec.extractLsb'_toNat, Nat.shiftRight_eq_div_pow]
  rw [le16, hlow, hhigh]

/-- Settles O1: a word behind `s` is a word at the front, where the laws of `rd16` and `le16` apply. -/
theorem wordsAreLittleEndian : Obligations.WordsAreLittleEndian := by
  unfold Obligations.WordsAreLittleEndian
  intro w s t
  refine ⟨le16_eq w, ?_, fun a b => ?_, cksum16_toNat s⟩
  · rw [List.append_assoc, rd16_append, rd16_le16]
  · rw [rd16_append, rd16_cons_toNat]

/-! ## Buffers -/

/-- A range from the front is what stands before `i`, then the range from `i`. -/
theorem memRead_zero_add {size : Nat} (b : Buffer size) (i n : Nat) :
    memRead b 0 (i + n) = memRead b 0 i ++ memRead b i n := List.take_add

/-- A written range reads back. The range from the front shows it: it is the old bytes before `i`, then `v`. -/
theorem memRead_memWrite {size : Nat} (b : Buffer size) {i : Nat} {v : List Byte} (h : i + v.length ≤ size) :
    memRead (memWrite b i v) i v.length = v := by
  have hfront := memRead_memWrite_prefix b h
  rw [memRead_zero_add, memRead_memWrite_before b le_rfl (by omega)] at hfront
  exact List.append_cancel_left hfront

/-- Settles O2: the range reads back, and the frame of `memWrite`. -/
theorem bufferWriteReadsBack : Obligations.BufferWriteReadsBack := by
  unfold Obligations.BufferWriteReadsBack
  intro size b i v h
  exact ⟨memRead_memWrite b h, fun _ hj hout => memWrite_getElem_out b hj hout⟩

/-! ## The Channel -/

/-- A write answer within the contract is left as it is. -/
theorem writeWithin_of_le {n : Nat} {a : WriteAnswer} (h : ∀ k, a = .written k → k ≤ n) : writeWithin n a = a := by
  cases a with
  | written k => rw [writeWithin, Nat.min_eq_left (h k rfl)]
  | ioError => rfl

/-- A `ChWrite` takes the answer that is fixed next, when it is within the contract, and logs it. -/
theorem Channel.write_cons (c : Channel) (v : List Byte) {a : WriteAnswer} (h : ∀ k, a = .written k → k ≤ v.length) :
    ({ c with outbound := a :: c.outbound }.write v) = (a, { c with log := c.log ++ [.write v a] }) := by
  simp [Channel.write, Channel.nextWrite, Channel.record, writeWithin_of_le h]

/-- A `ChRead` takes the answer that is fixed next, when it is within the contract, and logs it. -/
theorem Channel.read_cons (c : Channel) (max : Nat) (t : WaitBound) {a : ReadAnswer}
    (h : ∀ r, a = .bytes r → r.length ≤ max) :
    ({ c with inbound := a :: c.inbound }.read max t) = (a, { c with log := c.log ++ [.read max t a] }) := by
  cases a with
  | bytes r => exact Channel.read_fixed _ max t (h r rfl) rfl
  | ioError => rfl

/-- Settles O3: the bounds of R14, and the two laws of a fixed answer (R16). -/
theorem channelAnswersWithinContract : Obligations.ChannelAnswersWithinContract := by
  unfold Obligations.ChannelAnswersWithinContract
  exact ⟨fun c v _ h => c.write_le v h, fun c max t _ h => c.read_le max t h, fun c v _ h => c.write_cons v h,
    fun c max t _ h => c.read_cons max t h⟩

end Sys2Proof.Machine
end

section
/-!
PROOFS of the statement that every step keeps the invariant (10_state.md R25 to R31, 42_session.md R124): what a request
frame is at its port, which outcomes an exchange can end with, what each phase promises; then one lemma for each phase.
-/
namespace Sys2Proof.Machine

/-! ## Request words -/

/-- A head-load bit is bit 0 of its word. -/
theorem headBit_getLsbD (v : Bool) (j : Nat) : (headBit v).getLsbD j = (v && decide (j = 0)) := by
  cases v <;> simp [headBit]

/-- Bits 15 to 4 of the head map are zero (R119). -/
theorem headmap_getLsbD_of_le (head : Vector Bool 4) {j : Nat} (h : 4 ≤ j) : (headmap head).getLsbD j = false := by
  simp [headmap, headBit_getLsbD, show j ≠ 0 by omega, show j - 1 ≠ 0 by omega, show j - 2 ≠ 0 by omega,
    show j - 3 ≠ 0 by omega]

/-- Bits 15 to 12 of a STAT request's `param1` are zero (R69). -/
theorem statParam1_reserved (sel : Option (Fin 4)) (head : Vector Bool 4) :
    (statParam1 sel head).extractLsb' 12 4 = 0 := by
  ext i hi
  have hsel : (selByte sel).getLsbD (12 + i) = false := BitVec.getLsbD_of_ge _ _ (by omega)
  have hhead : (headmap head).getLsbD (12 + i - 8) = false := headmap_getLsbD_of_le head (by omega)
  simp [statParam1, hsel, hhead]

/-- The drive nibble of a request is a drive index (R70). -/
theorem driveNibble_lt : ∀ d : Fin 4, (driveNibble d).toNat < 4 := by decide

/-- The drive of a READ or WRIT request stands in bits 15 to 12 (R70). -/
theorem packTrack_drive (track : BitVec 12) (drive : BitVec 4) : (packTrack track drive).extractLsb' 12 4 = drive := by
  ext i hi
  simp [packTrack, show 12 + i < 16 by omega, hi]

/-- A word is packed from its track and drive fields (R70). -/
theorem packTrack_extract (w : Word) : packTrack (w.extractLsb' 0 12) (w.extractLsb' 12 4) = w := by
  ext i hi
  by_cases h : i < 12
  · simp [packTrack, h, BitVec.getLsbD_eq_getElem hi]
  · simp [packTrack, h, show i - 12 < 4 by omega, show 12 + (i - 12) = i by omega, hi]

/-- A word whose bits 15 to 12 are zero is packed from its drive byte and its head bits (R69). -/
theorem packStat_extract {w : Word} (h : w.extractLsb' 12 4 = 0) :
    packStat (w.extractLsb' 0 8) (w.extractLsb' 8 4) = w := by
  have hhigh (j : Nat) (hj : j < 4) : w.getLsbD (12 + j) = false := by simpa [hj] using congrArg (·.getLsbD j) h
  ext i hi
  by_cases h8 : i < 8
  · simp [packStat, h8, BitVec.getLsbD_eq_getElem hi]
  by_cases h12 : i < 12
  · simp [packStat, h8, show i - 8 < 4 by omega, show 8 + (i - 8) = i by omega, hi]
  · have hbit : w[i] = false := by
      simpa [show 12 + (i - 12) = i by omega, hi] using hhigh (i - 12) (by omega)
    simp [packStat, h8, show ¬i - 8 < 4 by omega, hbit]

/-! ## Request frames at their port -/

/-- A frame that `FC_ENCODE` builds decodes to its fields (R90). -/
theorem fcDecode_fcEncode (tag : Tag) (p1 p2 : Word) : fcDecode (fcEncode tag p1 p2) = .ok tag p1 p2 := by
  simp [fcDecode, frameValid]

/-- At the request port such a frame is the request row of its fields. -/
theorem decode_request_fcEncode (tag : Tag) (p1 p2 : Word) :
    decode .request (fcEncode tag p1 p2) = requestOf tag p1 p2 := by
  simp [decode, decodeFrame, fcDecode_fcEncode]

/-- A STAT frame whose reserved bits are zero is a STAT request (R69). -/
theorem requestOf_stat {p1 : Word} (h : p1.extractLsb' 12 4 = 0) :
    requestOf tagStat p1 0 = .ok (.reqStat (p1.extractLsb' 0 8) (p1.extractLsb' 8 4)) := by
  rw [requestOf, if_pos rfl, if_pos ⟨h, rfl⟩]

/-- A request row runs by sending the frame of the tag and the words it was read from. -/
theorem exec_requestOf {tag : Tag} {p1 p2 : Word} {i : Instr} (h : requestOf tag p1 p2 = .ok i) (s : State) :
    exec i s = sendRequest i s ∧ encode i = fcEncode tag p1 p2 := by
  unfold requestOf at h
  split at h
  · rename_i htag
    split at h
    · rename_i hzero; cases h; exact ⟨rfl, by rw [encode, packStat_extract hzero.1, htag, hzero.2]⟩
    · cases h
  split at h
  · rename_i htag; cases h; exact ⟨rfl, by rw [encode, packTrack_extract, htag]⟩
  split at h
  · rename_i htag; cases h; exact ⟨rfl, by rw [encode, packTrack_extract, htag]⟩
  · cases h

/-- Ten bytes that decode at the request port run by being sent (R104). -/
theorem exec_decode_request {f : List Byte} {i : Instr} (h : decode .request f = .ok i) (s : State) :
    exec i s = sendRequest i s ∧ encode i = f := by
  simp only [decode, decodeFrame] at h
  split at h
  · rename_i hlen
    split at h
    · rename_i tag p1 p2 hd
      rw [← fcEncode_of_decode hlen hd]
      exact exec_requestOf h s
    · cases h
  · cases h

/-- A step in `SEND_CMD` writes `CMD`, whatever it holds (R104). -/
theorem step_sendCmd {s : State} (h : s.phase = .sendCmd) : step s = .next (transmitCommand s.cmd.toList s) := by
  simp only [step, fetch, h, fetchRequest]
  cases hd : decode .request s.cmd.toList with
  | error e => rfl
  | ok i =>
    obtain ⟨hexec, hcmd⟩ := exec_decode_request hd s
    rw [← hcmd]
    exact hexec.trans (sendRequest_next.mpr ⟨h, rfl⟩)

/-! ## The outcomes an exchange can end with -/

/-- The outcome is one R126 allows, and its counts are those of the exchange's own `L`. -/
def State.Allows (s : State) (o : ExOutcome) : Prop := o.legit = true ∧ (s.finish o).outFits = true

variable {s t : State}

theorem allows_invalidDrive (s : State) : s.Allows .invalidDrive := ⟨rfl, rfl⟩

theorem allows_ioError (s : State) : s.Allows .ioError := ⟨rfl, rfl⟩

theorem allows_timeout (s : State) : s.Allows .timeout := ⟨rfl, rfl⟩

/-- A mismatch names two different tags, and the expected one is the tag of a response. -/
theorem allows_tagMismatch (s : State) {expected received : Tag} (hne : received ≠ expected)
    (hmem : expected = tagStat ∨ expected = tagWrit ∨ expected = tagWsta) :
    s.Allows (.tagMismatch expected received) :=
  ⟨by simpa [ExOutcome.legit, or_assoc] using ⟨hne.symm, hmem⟩, rfl⟩

theorem allows_remoteRefusal (s : State) (p : RefusalPhase) {code : Word} (h : code ≠ 0) :
    s.Allows (.remoteRefusal p code) := ⟨by simpa [ExOutcome.legit] using h, rfl⟩

/-- The outcomes of R107. -/
theorem allows_statVerdict (s : State) (tag : Tag) (rdata : Word) : s.Allows (statVerdict tag rdata) := by
  unfold statVerdict
  split
  · exact allows_tagMismatch s ‹_› (.inl rfl)
  · exact ⟨rfl, rfl⟩

/-- The outcomes of R108. -/
theorem allows_ackVerdict (s : State) {tag : Tag} {rcode : Word} {o : ExOutcome} (h : ackVerdict tag rcode = some o) :
    s.Allows o := by
  unfold ackVerdict at h
  split at h
  · cases h; exact allows_tagMismatch s ‹_› (.inr (.inl rfl))
  split at h
  · cases h; exact allows_remoteRefusal s _ ‹_›
  · cases h

/-- The outcomes of R109. -/
theorem allows_finalVerdict (s : State) (tag : Tag) (rcode : Word) : s.Allows (finalVerdict tag rcode) := by
  unfold finalVerdict
  split
  · exact allows_tagMismatch s ‹_› (.inr (.inr rfl))
  split
  · exact ⟨rfl, rfl⟩
  · exact allows_remoteRefusal s _ ‹_›

/-- `L` is one of the two track lengths (R30). -/
theorem State.L_eq (s : State) : s.L = Geometry.eightInch.trackLen ∨ s.L = Geometry.mini.trackLen := by
  unfold State.L
  cases s.len with
  | eightInch => exact .inl rfl
  | mini => exact .inr rfl

theorem allows_readOk {p : List Byte} (h : p.length = s.L) : s.Allows (.readOk (s.L + 2) p) :=
  ⟨by simpa [ExOutcome.legit, h] using s.L_eq, by simp [State.outFits, h]⟩

theorem allows_readChecksumInvalid (s : State) : s.Allows (.readChecksumInvalid (s.L + 2)) :=
  ⟨by simpa [ExOutcome.legit] using s.L_eq, by simp [State.outFits]⟩

theorem allows_partialData (h : s.tn < s.L + 2) : s.Allows (.partialData s.tn) := by
  have hL : s.L ≤ Geometry.eightInch.trackLen := trackLen_le s.len
  exact ⟨decide_eq_true (by omega), decide_eq_true h⟩

/-! ## What a phase promises -/

theorem phaseOk_awaitFrame (h : s.phase = .awaitFrame) : s.phaseOk = true ↔ s.fn < 10 ∧ s.kind ≠ .read := by
  simp [State.phaseOk, h]

theorem phaseOk_awaitPayload (h : s.phase = .awaitPayload) : s.phaseOk = true ↔ s.tn < s.L + 2 ∧ s.kind = .read := by
  simp [State.phaseOk, h]

theorem phaseOk_readyToSend (h : s.phase = .readyToSend) : s.phaseOk = true ↔ s.kind = .writ := by
  simp [State.phaseOk, h]

theorem phaseOk_awaitWsta (h : s.phase = .awaitWsta) : s.phaseOk = true ↔ s.fn < 10 ∧ s.kind = .writ := by
  simp [State.phaseOk, h]

/-- A frame wait goes on keeping its promise while `FB` is not full. -/
theorem phaseOk_frameWait (hw : s.phase = .awaitFrame ∨ s.phase = .awaitWsta) (h : s.phaseOk = true)
    (hphase : t.phase = s.phase) (hkind : t.kind = s.kind) (hfn : t.fn < 10) : t.phaseOk = true := by
  rcases hw with hw | hw
  · exact (phaseOk_awaitFrame (hphase.trans hw)).mpr ⟨hfn, hkind ▸ ((phaseOk_awaitFrame hw).mp h).2⟩
  · exact (phaseOk_awaitWsta (hphase.trans hw)).mpr ⟨hfn, hkind ▸ ((phaseOk_awaitWsta hw).mp h).2⟩

/-- The first wait of an exchange begins with nothing read, in a phase that fits its `KIND` (R104). -/
theorem phaseOk_firstWait (s : State) : (s.clearCounts.setPhase (firstWait s.kind)).phaseOk = true := by
  cases hk : s.kind <;> simp [State.phaseOk, firstWait, hk]

/-- A request row of the exchange's kind, length and a drive, put into `CMD`, begins the exchange. -/
theorem phaseOk_beginExchange {k : Kind} {tag : Tag} {p1 p2 : Word} {i : Instr} (hrow : requestOf tag p1 p2 = .ok i)
    (hreq : isRequestOf k s.len i = true) : (s.beginExchange k (fcEncode tag p1 p2)).phaseOk = true := by
  have hcmd : (s.beginExchange k (fcEncode tag p1 p2)).cmd.toList = fcEncode tag p1 p2 := memWrite_whole _ rfl
  simp only [State.phaseOk, State.beginExchange_phase, State.cmdOk, hcmd, decode_request_fcEncode, hrow]
  exact hreq

/-! ## Every step keeps the invariant -/

/-- An exchange ends in a state that meets the invariant, when its counts are in range and the outcome is allowed. -/
theorem inv_finish {o : ExOutcome} (hfn : s.fn ≤ 10) (htn : s.tn ≤ 4386) (ho : s.Allows o) : (s.finish o).Inv :=
  ⟨hfn, htn, ho⟩

/-- Every host operation keeps the invariant; an accept step leaves the request frame in `CMD` (R101 to R103). -/
theorem hostEffect_inv {i : Instr} (hp : s.phase = .idle) (hi : s.Inv) (he : HostEffect s i t) : t.Inv := by
  obtain ⟨hfn, htn, hout, -⟩ := hi
  cases he with
  | result => exact ⟨hfn, htn, hout, by simp [State.phaseOk, hp]⟩
  | select => exact ⟨hfn, htn, hout, by simp [State.phaseOk, hp]⟩
  | head => exact ⟨hfn, htn, hout, by simp [State.phaseOk, hp]⟩
  | noDrive => exact inv_finish hfn htn (allows_invalidDrive s)
  | stat =>
    have hrow := requestOf_stat (statParam1_reserved s.sel s.head)
    exact ⟨hfn, htn, hout, phaseOk_beginExchange hrow rfl⟩
  | read track t12 g d =>
    refine ⟨hfn, htn, hout, phaseOk_beginExchange rfl ?_⟩
    simp [isRequestOf, packTrack_drive, driveNibble_lt]
  | writ track t12 g data d =>
    refine ⟨hfn, htn, hout, phaseOk_beginExchange rfl ?_⟩
    simp [isRequestOf, packTrack_drive, driveNibble_lt]

theorem step_idle_inv (hp : s.phase = .idle) (hi : s.Inv) (h : step s = .next t) : t.Inv := by
  rcases step_idle_next hp h with ⟨-, rfl⟩ | ⟨_, _, i, -, -, he⟩
  · exact hi
  · exact hostEffect_inv (s := s.dropPending) hp hi he

theorem step_sendCmd_inv (hp : s.phase = .sendCmd) (hi : s.Inv) (h : step s = .next t) : t.Inv := by
  obtain ⟨hfn, htn, hout, -⟩ := hi
  obtain rfl : transmitCommand s.cmd.toList s = t := Host.Outcome.next.inj ((step_sendCmd hp).symm.trans h)
  rcases transmitCommand_cases s.cmd.toList s with ⟨-, heq⟩ | ⟨-, heq⟩
  · rw [heq]
    exact ⟨Nat.zero_le _, Nat.zero_le _, hout, phaseOk_firstWait (s.setChan _)⟩
  · rw [heq]
    exact inv_finish hfn htn (allows_ioError _)

/-- The frame waits (R105 to R110): the tenth byte ends the wait, or the frame is dropped and `FN` is zero again, so a
wait goes on with fewer than ten. -/
theorem step_frameWait_inv (hw : s.phase = .awaitFrame ∨ s.phase = .awaitWsta) (hi : s.Inv) (h : step s = .next t) :
    t.Inv := by
  obtain ⟨hfn, htn, hout, hph⟩ := hi
  obtain ⟨a, c, -, ⟨-, rfl⟩ | ⟨-, rfl⟩ | ⟨v, -, -, hle, hcase⟩⟩ := step_frameWait_next hw h
  · exact inv_finish hfn htn (allows_ioError _)
  · exact inv_finish hfn htn (allows_timeout _)
  rcases hcase with ⟨hlt, rfl⟩ | ⟨-, -, rfl⟩ | ⟨-, tag, rc, rd, -, hframe⟩
  · exact ⟨hle, htn, hout, phaseOk_frameWait hw hph rfl rfl hlt⟩
  · exact ⟨Nat.zero_le _, htn, hout, phaseOk_frameWait hw hph rfl rfl (by simp)⟩
  rcases hframe with ⟨-, -, rfl⟩ | ⟨-, hk, -, -, rfl⟩ | ⟨-, -, o, ho, rfl⟩ | ⟨-, rfl⟩
  · exact inv_finish hle htn (allows_statVerdict _ tag rd)
  · exact ⟨hle, htn, hout, (phaseOk_readyToSend rfl).mpr hk⟩
  · exact inv_finish hle htn (allows_ackVerdict _ ho)
  · exact inv_finish hle htn (allows_finalVerdict _ tag rc)

/-- The payload wait (R111, R112, R114): `TN` never passes `L + 2`, and reaches it only where the exchange ends. -/
theorem step_payload_inv (hp : s.phase = .awaitPayload) (hi : s.Inv) (h : step s = .next t) : t.Inv := by
  obtain ⟨hfn, htn, hout, hph⟩ := hi
  obtain ⟨hlt, hk⟩ := (phaseOk_awaitPayload hp).mp hph
  have hL : s.L ≤ 4384 := trackLen_le s.len
  obtain ⟨a, c, -, ⟨-, rfl⟩ | ⟨-, rfl⟩ | ⟨v, -, -, hle, hcase⟩⟩ := step_payload_next hp h
  · exact inv_finish hfn htn (allows_ioError _)
  · exact inv_finish hfn htn (allows_partialData (s := s.setChan c) hlt)
  have htn' : s.tn + v.length ≤ 4386 := by omega
  rcases hcase with ⟨hlt', rfl⟩ | ⟨-, ⟨p, hlen, rfl⟩ | rfl⟩
  · exact ⟨hfn, htn', hout, (phaseOk_awaitPayload (s := (s.setChan c).pushTrack v) hp).mpr ⟨hlt', hk⟩⟩
  · exact inv_finish hfn htn' (allows_readOk (s := (s.setChan c).pushTrack v) hlen)
  · exact inv_finish hfn htn' (allows_readChecksumInvalid ((s.setChan c).pushTrack v))

theorem step_ready_inv (hp : s.phase = .readyToSend) (hi : s.Inv) (h : step s = .next t) : t.Inv := by
  obtain ⟨hfn, htn, hout, hph⟩ := hi
  obtain rfl : sendPayload s = t := Host.Outcome.next.inj ((step_ready hp).symm.trans h)
  rcases sendPayload_cases s with ⟨-, heq⟩ | ⟨-, heq⟩
  · rw [heq]
    exact ⟨Nat.zero_le _, htn, hout, (phaseOk_awaitWsta rfl).mpr ⟨by simp, (phaseOk_readyToSend hp).mp hph⟩⟩
  · rw [heq]
    exact inv_finish hfn htn (allows_ioError _)

theorem step_done_inv (hp : s.phase = .done) (hi : s.Inv) (h : step s = .next t) : t.Inv := by
  obtain ⟨hfn, htn, hout, -⟩ := hi
  obtain rfl : s.returnOutcome = t := Host.Outcome.next.inj ((step_done hp).symm.trans h)
  exact ⟨hfn, htn, hout, rfl⟩

/-- Settles O50: phase by phase, from all that a step of the phase can do. -/
theorem stepKeepsInvariant : Obligations.StepKeepsInvariant := by
  unfold Obligations.StepKeepsInvariant
  intro s t hi h
  cases hp : s.phase with
  | idle => exact step_idle_inv hp hi h
  | sendCmd => exact step_sendCmd_inv hp hi h
  | awaitFrame => exact step_frameWait_inv (.inl hp) hi h
  | awaitPayload => exact step_payload_inv hp hi h
  | readyToSend => exact step_ready_inv hp hi h
  | awaitWsta => exact step_frameWait_inv (.inr hp) hi h
  | done => exact step_done_inv hp hi h

end Sys2Proof.Machine
end

section
/-!
PROOFS of the statements on the Channel's order and on the transactions of a step (20_memory.md R51, R53, R57, R59): what a
read does with an answer that is too long, then, phase by phase, what a step asks of the Channel.
-/
namespace Sys2Proof.Machine

/-- A `ChRead` gives the front of a fixed answer that is too long and puts the rest back first (assumption 6). -/
theorem Channel.read_too_long (c : Channel) {v : List Byte} {rest : List ReadAnswer} {max : Nat} (t : WaitBound)
    (hin : c.inbound = .bytes v :: rest) (hlt : max < v.length) :
    c.read max t = (.bytes (v.take max),
      { c with inbound := .bytes (v.drop max) :: rest, log := c.log ++ [.read max t (.bytes (v.take max))] }) := by
  have hleft : (v.drop max).isEmpty = false := by simpa using hlt
  simp [Channel.read, Channel.nextRead, hin, Channel.keep, hleft, Channel.record]

/-- Settles O4: a read of a too long answer writes the inbound stream and the log only. -/
theorem unreadBytesStayFirst : Obligations.UnreadBytesStayFirst := by
  unfold Obligations.UnreadBytesStayFirst
  intro c v rest max t hin hlt
  rw [c.read_too_long t hin hlt]
  exact ⟨rfl, rfl, rfl, rfl⟩

/-! ## The Channel after a step -/

variable {s t : State}

/-- No host operation makes a transaction. -/
theorem HostEffect.chan_eq {i : Instr} (he : HostEffect s i t) : t.chan = s.chan := by
  cases he <;> rfl

theorem step_idle_chan (hp : s.phase = .idle) (h : step s = .next t) : t.chan = s.chan := by
  rcases step_idle_next hp h with ⟨-, rfl⟩ | ⟨_, _, _, -, -, he⟩
  · rfl
  · exact he.chan_eq

/-- The Channel after a command frame is sent, whatever the answer (R104). -/
theorem transmitCommand_chan (frame : List Byte) (s : State) :
    (transmitCommand frame s).chan = (s.chan.write frame).2 := by
  rcases transmitCommand_cases frame s with ⟨-, heq⟩ | ⟨-, heq⟩ <;> rw [heq] <;> rfl

/-- What stands in `TB` once the checksum is behind the payload is the payload as `TC_APPEND` gives it (R93, R113). -/
theorem memRead_appendChecksum (s : State) :
    memRead s.appendChecksum.tb 0 (s.L + 2) = tcAppend (memRead s.tb 0 s.L) := by
  have hL : s.L ≤ 4384 := trackLen_le s.len
  exact memRead_memWrite_prefix s.tb (v := le16 (cksum16 (memRead s.tb 0 s.L))) (by simp; omega)

/-- The Channel after the payload is sent, whatever the answer (R113). -/
theorem sendPayload_chan (s : State) : (sendPayload s).chan = (s.chan.write (tcAppend (memRead s.tb 0 s.L))).2 := by
  rw [← memRead_appendChecksum]
  rcases sendPayload_cases s with ⟨-, heq⟩ | ⟨-, heq⟩ <;> rw [heq] <;> rfl

/-- A frame wait makes its one read attempt, whatever the arbiter then does with the frame (R105). -/
theorem step_frameWait_chan (hw : s.phase = .awaitFrame ∨ s.phase = .awaitWsta) (h : step s = .next t) :
    t.chan = (s.chan.read (10 - s.fn) .frame).2 := by
  obtain ⟨a, c, hread, hcase⟩ := step_frameWait_next hw h
  rw [hread]
  rcases hcase with ⟨-, rfl⟩ | ⟨-, rfl⟩ | ⟨v, -, -, -, ⟨-, rfl⟩ | ⟨-, -, rfl⟩ | ⟨-, tag, rc, rd, -, hjudged⟩⟩
  · rfl
  · rfl
  · rfl
  · rfl
  · rcases hjudged with ⟨-, -, rfl⟩ | ⟨-, -, -, -, rfl⟩ | ⟨-, -, o, -, rfl⟩ | ⟨-, rfl⟩ <;> rfl

/-- The payload wait makes its one read attempt, whatever comes of the payload (R111). -/
theorem step_payload_chan (hp : s.phase = .awaitPayload) (h : step s = .next t) :
    t.chan = (s.chan.read (s.L + 2 - s.tn) .chunk).2 := by
  obtain ⟨a, c, hread, hcase⟩ := step_payload_next hp h
  rw [hread]
  rcases hcase with ⟨-, rfl⟩ | ⟨-, rfl⟩ | ⟨v, -, -, -, ⟨-, rfl⟩ | ⟨-, ⟨p, -, rfl⟩ | rfl⟩⟩ <;> rfl

/-! ## The transaction of a step -/

/-- A Channel that is as a `ChWrite` left it has one more write in its log. -/
theorem log_of_write {c d : Channel} {v : List Byte} (h : d = (c.write v).2) :
    ∃ a, d.log = c.log ++ [.write v a] :=
  ⟨_, h ▸ c.write_log v⟩

/-- A Channel that is as a `ChRead` left it has one more read in its log. -/
theorem log_of_read {c d : Channel} {max : Nat} {b : WaitBound} (h : d = (c.read max b).2) :
    ∃ a, d.log = c.log ++ [.read max b a] :=
  ⟨_, h ▸ c.read_log max b⟩

/-- Settles O46: the Channel after a step of each phase, and the log it then has. -/
theorem oneTransactionPerStep : Obligations.OneTransactionPerStep := by
  unfold Obligations.OneTransactionPerStep
  intro s t h
  cases hp : s.phase with
  | idle => exact step_idle_chan hp h
  | sendCmd =>
    obtain rfl : transmitCommand s.cmd.toList s = t := Host.Outcome.next.inj ((step_sendCmd hp).symm.trans h)
    exact log_of_write (transmitCommand_chan _ s)
  | awaitFrame => exact log_of_read (step_frameWait_chan (.inl hp) h)
  | awaitPayload => exact log_of_read (step_payload_chan hp h)
  | readyToSend =>
    obtain rfl : sendPayload s = t := Host.Outcome.next.inj ((step_ready hp).symm.trans h)
    exact log_of_write (sendPayload_chan s)
  | awaitWsta => exact log_of_read (step_frameWait_chan (.inr hp) h)
  | done =>
    obtain rfl : s.returnOutcome = t := Host.Outcome.next.inj ((step_done hp).symm.trans h)
    rfl

end Sys2Proof.Machine
end

section
/-!
PROOFS of the statements on encoding and decoding (30_encoding.md R66 to R79): the fields of a request word, what a frame
and an operand decode to, row by row; then the round trip in both directions.
-/
namespace Sys2Proof.Machine

/-! ## The fields of a request word -/

/-- The drive byte of a STAT request stands in bits 7 to 0 (R69). -/
theorem packStat_sel (sel : Byte) (heads : BitVec 4) : (packStat sel heads).extractLsb' 0 8 = sel := by
  ext i hi
  simp [packStat, show i < 16 by omega, hi]

/-- The head bits of a STAT request stand in bits 11 to 8 (R69). -/
theorem packStat_heads (sel : Byte) (heads : BitVec 4) : (packStat sel heads).extractLsb' 8 4 = heads := by
  ext i hi
  simp [packStat, show 8 + i < 16 by omega, hi]

/-- Bits 15 to 12 of a STAT request are zero (R69). -/
theorem packStat_reserved (sel : Byte) (heads : BitVec 4) : (packStat sel heads).extractLsb' 12 4 = 0 := by
  ext i hi
  have hsel : sel.getLsbD (12 + i) = false := BitVec.getLsbD_of_ge _ _ (by omega)
  have hheads : heads.getLsbD (12 + i - 8) = false := BitVec.getLsbD_of_ge _ _ (by omega)
  simp [packStat, hsel, hheads]

/-- The track of a READ or WRIT request stands in bits 11 to 0 (R70). -/
theorem packTrack_track (track : BitVec 12) (drive : BitVec 4) : (packTrack track drive).extractLsb' 0 12 = track := by
  ext i hi
  simp [packTrack, show i < 16 by omega, hi]

/-! ## Frames at their port -/

/-- Every frame tagged `READ` is a READ request (R70). -/
theorem requestOf_read (p1 p2 : Word) :
    requestOf tagRead p1 p2 = .ok (.reqRead (p1.extractLsb' 0 12) (p1.extractLsb' 12 4) p2) := rfl

/-- Every frame tagged `WRIT` is a WRIT request (R70). -/
theorem requestOf_writ (p1 p2 : Word) :
    requestOf tagWrit p1 p2 = .ok (.reqWrit (p1.extractLsb' 0 12) (p1.extractLsb' 12 4) p2) := rfl

/-- At the response port a frame that `FC_ENCODE` builds is the response row of its fields. -/
theorem decode_response_fcEncode (tag : Tag) (rcode rdata : Word) :
    decode .response (fcEncode tag rcode rdata) = responseOf tag rcode rdata := by
  simp [decode, decodeFrame, fcDecode_fcEncode]

/-- Bytes that decode as a frame are the frame of a tag and two words, and these are a row of the port (R66, R79). -/
theorem decodeFrame_ok {row : Tag → Word → Word → Except DecodeError Instr} {f : List Byte} {i : Instr}
    (h : decodeFrame row f = .ok i) : ∃ tag p1 p2, f = fcEncode tag p1 p2 ∧ row tag p1 p2 = .ok i := by
  unfold decodeFrame at h
  split at h
  · rename_i hlen
    split at h
    · rename_i tag p1 p2 hd
      exact ⟨tag, p1, p2, (fcEncode_of_decode hlen hd).symm, h⟩
    · cases h
  · cases h

/-- Every request row stands at the request port. -/
theorem requestOf_port {tag : Tag} {p1 p2 : Word} {i : Instr} (h : requestOf tag p1 p2 = .ok i) : i.port = .request := by
  unfold requestOf at h
  split at h
  · split at h
    · cases h; rfl
    · cases h
  split at h
  · cases h; rfl
  split at h
  · cases h; rfl
  · cases h

/-- A request row stands at the request port and encodes to the frame of the tag and the words it was read from. -/
theorem requestOf_encode {tag : Tag} {p1 p2 : Word} {i : Instr} (h : requestOf tag p1 p2 = .ok i) :
    i.port = .request ∧ encode i = fcEncode tag p1 p2 :=
  ⟨requestOf_port h, (exec_requestOf h State.reset).2⟩

/-- A response row stands at the response port and encodes to the frame of the tag and the words it was read from. -/
theorem responseOf_encode {tag : Tag} {rcode rdata : Word} {i : Instr} (h : responseOf tag rcode rdata = .ok i) :
    i.port = .response ∧ encode i = fcEncode tag rcode rdata := by
  unfold responseOf at h
  split at h
  · rename_i htag; cases h; exact ⟨rfl, by rw [htag, encode]⟩
  split at h
  · rename_i htag; cases h; exact ⟨rfl, by rw [htag, encode]⟩
  split at h
  · rename_i htag; cases h; exact ⟨rfl, by rw [htag, encode]⟩
  · cases h

/-- Settles O6: such bytes are the frame of a tag and two words, and the row of these encodes to that frame. -/
theorem framesHaveOneMeaning : Obligations.FramesHaveOneMeaning := by
  unfold Obligations.FramesHaveOneMeaning
  intro f i
  constructor
  · intro h
    obtain ⟨tag, p1, p2, rfl, hrow⟩ := decodeFrame_ok h
    exact requestOf_encode hrow
  · intro h
    obtain ⟨tag, p1, p2, rfl, hrow⟩ := decodeFrame_ok h
    exact responseOf_encode hrow

/-! ## Operands of the host messages (assumption 4) -/

/-- The geometry of a geometry's code is the geometry. -/
theorem geometryOf_geometryCode (g : Geometry) : geometryOf (geometryCode g) = some g := by
  cases g <;> rfl

/-- A bit is the bit of its choice byte. -/
theorem bitOf_choice (v : Bool) : bitOf (if v then 1 else 0) = some v := by
  cases v <;> rfl

/-- A word is read back from its two bytes written out. -/
theorem rd16_word_bytes (w : Word) : rd16 [w.extractLsb' 0 8, w.extractLsb' 8 8] 0 = w := rd16_le16 w []

/-- `EX_READ` reads the track word and the geometry. -/
theorem decodeExRead_word (w : Word) (g : Geometry) :
    decodeExRead (le16 w ++ [geometryCode g]) = .ok (.exRead w.toNat g) := by
  simp only [le16, List.cons_append, List.nil_append, decodeExRead, geometryOf_geometryCode, rd16_word_bytes]

/-- `EX_WRIT` reads the track word and the geometry, and leaves the data as it is. -/
theorem decodeExWrit_word (w : Word) (g : Geometry) (data : List Byte) :
    decodeExWrit (le16 w ++ geometryCode g :: data) = .ok (.exWrit w.toNat g data) := by
  simp only [le16, List.cons_append, List.nil_append, decodeExWrit, geometryOf_geometryCode, rd16_word_bytes]

/-- `FC_ENCODE` reads its two words and leaves the tag as it is. -/
theorem decodeFcEncode_words (tag : List Byte) (p1 p2 : Word) :
    decodeFcEncode (le16 p1 ++ le16 p2 ++ tag) = .ok (.fcEncode tag p1 p2) := by
  simp only [le16, List.cons_append, List.nil_append, decodeFcEncode, rd16_word_bytes]

/-- A number is read back from its groups of seven bits, whatever follows, when the fuel is enough: each group taken off
a number of 128 or more leaves a smaller one. -/
theorem natOfBytes_natBytesFuel (fuel n : Nat) (x : List Byte) (h : n ≤ fuel) :
    natOfBytes (natBytesFuel fuel n ++ x) = some (n, x) := by
  induction fuel generalizing n with
  | zero =>
    obtain rfl : n = 0 := Nat.le_zero.mp h
    rfl
  | succ fuel ih =>
    by_cases hn : n < 128
    · have hb : (BitVec.ofNat 8 n).toNat = n := by rw [BitVec.toNat_ofNat, Nat.mod_eq_of_lt (by omega)]
      simp only [natBytesFuel, if_pos hn, List.cons_append, List.nil_append, natOfBytes, hb]
    · have hb : (BitVec.ofNat 8 (128 + n % 128)).toNat = 128 + n % 128 := by
        rw [BitVec.toNat_ofNat, Nat.mod_eq_of_lt (by omega)]
      have hmore : ¬128 + n % 128 < 128 := by omega
      have hsum : 128 + n % 128 - 128 + 128 * (n / 128) = n := by omega
      simp only [natBytesFuel, if_neg hn, List.cons_append, natOfBytes, hb, if_neg hmore, ih (n / 128) (by omega),
        Option.map_some, hsum]

/-- The expected length of `TC_VALIDATE` is read back before the sequence. -/
theorem natOfBytes_natBytes (n : Nat) (x : List Byte) : natOfBytes (natBytes n ++ x) = some (n, x) :=
  natOfBytes_natBytesFuel n n x le_rfl

/-! ## Each row with operands decodes from its encoding

The first byte of a host message picks the decoder of its operands by evaluation.
-/

theorem decode_encode_reqStat (sel : Byte) (heads : BitVec 4) :
    decode .request (encode (.reqStat sel heads)) = .ok (.reqStat sel heads) := by
  rw [encode, decode_request_fcEncode, requestOf_stat (packStat_reserved sel heads), packStat_sel, packStat_heads]

theorem decode_encode_reqRead (track : BitVec 12) (drive : BitVec 4) (len : Word) :
    decode .request (encode (.reqRead track drive len)) = .ok (.reqRead track drive len) := by
  rw [encode, decode_request_fcEncode, requestOf_read, packTrack_track, packTrack_drive]

theorem decode_encode_reqWrit (track : BitVec 12) (drive : BitVec 4) (len : Word) :
    decode .request (encode (.reqWrit track drive len)) = .ok (.reqWrit track drive len) := by
  rw [encode, decode_request_fcEncode, requestOf_writ, packTrack_track, packTrack_drive]

theorem decode_encode_exRead {track : Nat} (g : Geometry) (h : track < 4096) :
    decode .host (encode (.exRead track g)) = .ok (.exRead track g) := by
  have hmsg := decodeExRead_word (BitVec.ofNat 16 track) g
  rwa [BitVec.toNat_ofNat, Nat.mod_eq_of_lt (by omega)] at hmsg

theorem decode_encode_exWrit {track : Nat} (g : Geometry) (data : List Byte) (h : track < 4096) :
    decode .host (encode (.exWrit track g data)) = .ok (.exWrit track g data) := by
  have hmsg := decodeExWrit_word (BitVec.ofNat 16 track) g data
  rwa [BitVec.toNat_ofNat, Nat.mod_eq_of_lt (by omega)] at hmsg

theorem decode_encode_dsSelect {idx : Nat} (h : idx < 4) :
    decode .host (encode (.dsSelect (some idx))) = .ok (.dsSelect (some idx)) := by
  have hmsg : decode .host (encode (.dsSelect (some idx))) = .ok (.dsSelect (some (BitVec.ofNat 8 idx).toNat)) := rfl
  rw [hmsg, BitVec.toNat_ofNat, Nat.mod_eq_of_lt (by omega)]

theorem decode_encode_dsHead {idx : Nat} (v : Bool) (h : idx < 4) :
    decode .host (encode (.dsHead idx v)) = .ok (.dsHead idx v) := by
  have hmsg : decode .host (encode (.dsHead idx v)) = decodeDsHead [BitVec.ofNat 8 idx, if v then 1 else 0] := rfl
  rw [hmsg, decodeDsHead, bitOf_choice, BitVec.toNat_ofNat, Nat.mod_eq_of_lt (by omega)]

theorem decode_encode_tcValidate (x : List Byte) (n : Nat) :
    decode .host (encode (.tcValidate x n)) = .ok (.tcValidate x n) := by
  have hmsg : decode .host (encode (.tcValidate x n)) = decodeTcValidate (natBytes n ++ x) := rfl
  rw [hmsg, decodeTcValidate, natOfBytes_natBytes]

/-- Settles O5: row by row. A row without operands, and one whose message is its bytes as they are, decodes by
evaluation; well-formedness gives the ranges of the host operations' numbers. -/
theorem decodeEncodeRoundTrip : Obligations.DecodeEncodeRoundTrip := by
  unfold Obligations.DecodeEncodeRoundTrip
  intro i hwf
  cases i with
  | reqStat sel heads => exact decode_encode_reqStat sel heads
  | reqRead track drive len => exact decode_encode_reqRead track drive len
  | reqWrit track drive len => exact decode_encode_reqWrit track drive len
  | rspStat rcode rdata => exact decode_response_fcEncode tagStat rcode rdata
  | rspWrit rcode rdata => exact decode_response_fcEncode tagWrit rcode rdata
  | rspWsta rcode rdata => exact decode_response_fcEncode tagWsta rcode rdata
  | exStat => rfl
  | exRead track g => exact decode_encode_exRead g (of_decide_eq_true hwf)
  | exWrit track g data =>
    obtain ⟨htrack, -⟩ := Bool.and_eq_true_iff.mp hwf
    exact decode_encode_exWrit g data (of_decide_eq_true htrack)
  | dsSelect idx =>
    cases idx with
    | none => rfl
    | some idx => exact decode_encode_dsSelect (of_decide_eq_true hwf)
  | dsHead idx v => exact decode_encode_dsHead v (of_decide_eq_true hwf)
  | dsHeadmap => rfl
  | fcEncode tag p1 p2 => exact decodeFcEncode_words tag p1 p2
  | fcDecode f => rfl
  | tcChecksum payload => rfl
  | tcAppend payload => rfl
  | tcValidate x n => exact decode_encode_tcValidate x n

end Sys2Proof.Machine
end

section
/-!
PROOFS of the statements on the STAT request word, on refused arguments, on the spec's words and on the response codes
(30_encoding.md R69, R73, R76, R77, R79).
-/
namespace Sys2Proof.Machine

/-! ## The STAT request word -/

/-- The low byte of a STAT request's `param1` is the drive byte (R69). -/
theorem statParam1_low (sel : Option (Fin 4)) (head : Vector Bool 4) :
    (statParam1 sel head).extractLsb' 0 8 = selByte sel := by
  ext i hi
  simp [statParam1, show i < 16 by omega, hi]

/-- Bit `d` of the head map is `HEAD[d]` (R119). -/
theorem headmap_getLsbD (head : Vector Bool 4) (d : Fin 4) : (headmap head).getLsbD d.val = head[d] := by
  simp only [headmap, BitVec.getLsbD_or, BitVec.getLsbD_shiftLeft, headBit_getLsbD]
  fin_cases d <;> simp

/-- The high byte of a STAT request's `param1` is the head map (R69). -/
theorem statParam1_getLsbD_high (sel : Option (Fin 4)) (head : Vector Bool 4) {j : Nat} (h : j < 8) :
    (statParam1 sel head).getLsbD (8 + j) = (headmap head).getLsbD j := by
  simp [statParam1, show 8 + j < 16 by omega, BitVec.getLsbD_eq_getElem (show j < 16 by omega)]

/-- Settles O21: the three fields of the word. -/
theorem statRequestWord : Obligations.StatRequestWord := by
  unfold Obligations.StatRequestWord
  intro sel head
  refine ⟨?_, fun d => ?_, statParam1_reserved sel head⟩
  · rw [statParam1_low]
    cases sel <;> rfl
  · rw [statParam1_getLsbD_high sel head (by omega), headmap_getLsbD]

/-! ## Arguments outside their types (R77) -/

theorem trackArg_of_ge {track : Nat} (h : 4096 ≤ track) : trackArg track = none := if_neg (by omega)

theorem trackArg_of_lt {track : Nat} (h : track < 4096) : trackArg track = some (BitVec.ofNat 12 track) := if_pos h

theorem driveArg_of_ge {idx : Nat} (h : 4 ≤ idx) : driveArg idx = none := dif_neg (by omega)

theorem tagArg_of_length_ne {tag : List Byte} (h : tag.length ≠ 4) : tagArg tag = none := by
  unfold tagArg
  split
  · exact absurd rfl h
  · rfl

theorem geometryOf_of_ge {code : Byte} (h : 2 ≤ code.toNat) : geometryOf code = none := by
  have hne {n : Byte} (hn : n.toNat < 2) : code ≠ n := by rintro rfl; omega
  rw [geometryOf, if_neg (hne (by decide)), if_neg (hne (by decide))]

section Refusals

variable {s : State}

theorem exec_exRead_track_refused (hp : s.phase = .idle) {track : Nat} (g : Geometry) (h : 4096 ≤ track) :
    exec (.exRead track g) s = .refused (.illTyped .trackNumber) := by
  simp only [exec, execExRead, whenIdle_idle hp, trackArg_of_ge h]

theorem exec_exWrit_track_refused (hp : s.phase = .idle) {track : Nat} (g : Geometry) (data : List Byte)
    (h : 4096 ≤ track) : exec (.exWrit track g data) s = .refused (.illTyped .trackNumber) := by
  simp only [exec, execExWrit, whenIdle_idle hp, trackArg_of_ge h]

theorem exec_exWrit_data_refused (hp : s.phase = .idle) {track : Nat} {g : Geometry} {data : List Byte}
    (h : track < 4096) (hlen : data.length ≠ g.trackLen) :
    exec (.exWrit track g data) s = .refused (.illTyped .dataLength) := by
  simp only [exec, execExWrit, whenIdle_idle hp, trackArg_of_lt h, if_pos hlen]

theorem exec_dsSelect_refused (hp : s.phase = .idle) {idx : Nat} (h : 4 ≤ idx) :
    exec (.dsSelect (some idx)) s = .refused (.illTyped .driveIndex) := by
  simp only [exec, execDsSelect, whenIdle_idle hp, selectArg, driveArg_of_ge h, Option.map_none]

theorem exec_dsHead_refused (hp : s.phase = .idle) {idx : Nat} (v : Bool) (h : 4 ≤ idx) :
    exec (.dsHead idx v) s = .refused (.illTyped .driveIndex) := by
  simp only [exec, execDsHead, whenIdle_idle hp, driveArg_of_ge h]

theorem exec_fcEncode_refused (hp : s.phase = .idle) {tag : List Byte} (p1 p2 : Word) (h : tag.length ≠ 4) :
    exec (.fcEncode tag p1 p2) s = .refused (.illTyped .tagLength) := by
  simp only [exec, execFcEncode, whenIdle_idle hp, tagArg_of_length_ne h]

theorem exec_fcDecode_refused (hp : s.phase = .idle) {f : List Byte} (h : f.length ≠ 10) :
    exec (.fcDecode f) s = .refused (.illTyped .frameLength) := by
  simp only [exec, execFcDecode, whenIdle_idle hp, if_neg h]

/-- A message with a geometry code other than 0 or 1 is no operation, of either exchange that has one. -/
theorem decode_badGeometry (t0 t1 : Byte) {code : Byte} (data : List Byte) (h : 2 ≤ code.toNat) :
    decode .host [0x02, t0, t1, code] = .error (.badGeometry code) ∧
    decode .host (0x03 :: t0 :: t1 :: code :: data) = .error (.badGeometry code) := by
  have hread : decode .host [0x02, t0, t1, code] = decodeExRead [t0, t1, code] := rfl
  have hwrit : decode .host (0x03 :: t0 :: t1 :: code :: data) = decodeExWrit (t0 :: t1 :: code :: data) := rfl
  simp only [hread, hwrit, decodeExRead, decodeExWrit, geometryOf_of_ge h, and_self]

/-- A step that finds a message which is no operation is refused by name (R15, R77). -/
theorem step_undecodable (hp : s.phase = .idle) {msg : List Byte} {rest : List (List Byte)} {e : DecodeError}
    (hq : s.pending = msg :: rest) (hd : decode .host msg = .error e) : step s = .refused (.undecodable e) := by
  simp only [step_idle hp, hq, hd]

end Refusals

/-- Settles O25: one refusal for each argument type. -/
theorem illTypedArgumentsRefused : Obligations.IllTypedArgumentsRefused := by
  unfold Obligations.IllTypedArgumentsRefused
  intro s hp
  exact ⟨fun _ g h => exec_exRead_track_refused hp g h, fun _ g data h => exec_exWrit_track_refused hp g data h,
    fun _ _ _ h hlen => exec_exWrit_data_refused hp h hlen, fun _ h => exec_dsSelect_refused hp h,
    fun _ v h => exec_dsHead_refused hp v h, fun _ p1 p2 h => exec_fcEncode_refused hp p1 p2 h,
    fun _ h => exec_fcDecode_refused hp h, fun t0 t1 _ data h => decode_badGeometry t0 t1 data h,
    fun _ _ _ hq hd => step_undecodable hp hq hd⟩

/-! ## Words of the spec -/

/-- Settles O7: the decoder evaluated on the twelve words. -/
theorem specWordsDecode : Obligations.SpecWordsDecode := by
  unfold Obligations.SpecWordsDecode
  decide

/-! ## Response codes (R73) -/

/-- `0x0000` is the only code that is OK. -/
theorem classify_eq_ok {c : Word} : classify c = .ok ↔ c = 0x0000 := by
  constructor
  · intro h
    unfold classify at h
    split at h
    · assumption
    split at h
    · cases h
    split at h
    · cases h
    split at h <;> cases h
  · rintro rfl
    rfl

/-- Every code from `0x0004` on has no name of its own. -/
theorem classify_of_ge {c : Word} (h : 0x0004 ≤ c.toNat) : classify c = .unknown := by
  have hne {n : Word} (hn : n.toNat < 4) : c ≠ n := by rintro rfl; omega
  rw [classify, if_neg (hne (by decide)), if_neg (hne (by decide)), if_neg (hne (by decide)), if_neg (hne (by decide))]

/-- An acknowledgement with another code refuses the WRIT (R108). -/
theorem ackVerdict_refusal {c : Word} (h : c ≠ 0x0000) : ackVerdict tagWrit c = some (.remoteRefusal .ack c) := by
  rw [ackVerdict, if_neg (not_not_intro rfl), if_pos h]

/-- A final frame with another code refuses the WRIT (R109). -/
theorem finalVerdict_refusal {c : Word} (h : c ≠ 0x0000) : finalVerdict tagWsta c = .remoteRefusal .final c := by
  rw [finalVerdict, if_neg (not_not_intro rfl), if_neg h]

/-- The final outcome is a success exactly for the code that is OK. -/
theorem finalVerdict_isSuccess (c : Word) : (finalVerdict tagWsta c).isSuccess = true ↔ classify c = .ok := by
  rw [classify_eq_ok]
  by_cases h : c = 0x0000
  · subst h
    exact iff_of_true rfl rfl
  · rw [finalVerdict_refusal h]
    exact iff_of_false Bool.false_ne_true h

/-- Settles O42: the five names, then the two verdicts that read a code. -/
theorem responseCodesClassified : Obligations.ResponseCodesClassified := by
  unfold Obligations.ResponseCodesClassified
  exact ⟨rfl, rfl, rfl, rfl, fun _ h => classify_of_ge h, fun _ _ => ⟨rfl, rfl⟩, rfl, rfl, rfl,
    fun _ h => ⟨ackVerdict_refusal h, finalVerdict_refusal h⟩, finalVerdict_isSuccess⟩

end Sys2Proof.Machine
end

section
/-!
PROOFS of the statements on the Frame Codec (40_frame_codec.md R86 to R90): the sum of a frame does not wrap, so that
validity is an equation of numbers; from it, that a changed byte is detected; then the two operations.
-/
namespace Sys2Proof.Machine

/-! ## The sum of a frame (R89) -/

/-- At most eight bytes have a sum of at most 2040. -/
theorem byteSum_le_of_length_le {s : List Byte} (h : s.length ≤ 8) : byteSum s ≤ 2040 := by
  have hle := byteSum_le s
  omega

/-- The checksum of at most eight bytes is their exact sum. -/
theorem cksum16_toNat_of_length_le {s : List Byte} (h : s.length ≤ 8) : (cksum16 s).toNat = byteSum s := by
  have hle := byteSum_le_of_length_le h
  rw [cksum16_toNat, Nat.mod_eq_of_lt (by omega)]

/-- Settles O10: eight bytes sum to at most `8 * 255`, which is below 65536. -/
theorem frameSumNeverWraps : Obligations.FrameSumNeverWraps := by
  unfold Obligations.FrameSumNeverWraps
  intro f _
  exact ⟨cksum16_toNat_of_length_le (List.length_take_le 8 f), byteSum_le_of_length_le (List.length_take_le 8 f)⟩

/-! ## Validity (R88) -/

/-- A frame is valid when its stored word is the exact sum of its header. -/
theorem frameValid_iff (f : List Byte) : frameValid f = true ↔ (rd16 f 8).toNat = byteSum (f.take 8) := by
  rw [frameValid, beq_iff_eq, ← BitVec.toNat_inj, cksum16_toNat_of_length_le (List.length_take_le 8 f)]

/-- A stored word of 2041 or more is never valid (R87). -/
theorem frameValid_of_ge {f : List Byte} (h : 2041 ≤ (rd16 f 8).toNat) : frameValid f = false := by
  have hle := byteSum_le_of_length_le (List.length_take_le 8 f)
  rw [Bool.eq_false_iff, Ne, frameValid_iff]
  omega

/-- A frame that is not valid decodes to no field (R87). -/
theorem fcDecode_of_invalid {f : List Byte} (h : frameValid f = false) : fcDecode f = .checksumInvalid := by
  rw [fcDecode, h, if_neg Bool.false_ne_true]

/-! ## A changed byte is detected (R90) -/

/-- Putting `b` for byte `i` changes the sum by the difference of the two. -/
theorem byteSum_set (s : List Byte) (i : Nat) (hi : i < s.length) (b : Byte) :
    byteSum (s.set i b) + s[i].toNat = byteSum s + b.toNat := by
  induction s generalizing i with
  | nil => cases hi
  | cons a s ih =>
    cases i with
    | zero => simp only [List.set_cons_zero, List.getElem_cons_zero, byteSum_cons]; omega
    | succ i =>
      have hs := ih i (Nat.lt_of_succ_lt_succ hi)
      simp only [List.set_cons_succ, List.getElem_cons_succ, byteSum_cons]
      omega

/-- Byte `i` of the header is the same in a frame and in the frame with `b` there, when both are valid: the stored words
are the same, so the sums are. -/
theorem eq_of_frameValid_set_header {f : List Byte} {i : Nat} (hi : i < f.length) (h8 : i < 8) {b : Byte}
    (hf : frameValid f = true) (hg : frameValid (f.set i b) = true) : b = f[i] := by
  have hword : rd16 (f.set i b) 8 = rd16 f 8 := by rw [rd16_drop, List.drop_set_of_lt h8, ← rd16_drop]
  have hsum := byteSum_set (f.take 8) i (by simp; omega) b
  rw [frameValid_iff] at hf hg
  rw [hword, List.take_set] at hg
  rw [List.getElem_take] at hsum
  exact BitVec.eq_of_toNat_eq (by omega)

/-- Byte `i` of the stored word is the same in a frame and in the frame with `b` there, when both are valid: the headers
are the same, so the stored words are. -/
theorem eq_of_frameValid_set_word {f : List Byte} {i : Nat} (hi : i < f.length) (hlen : f.length = 10) (h8 : 8 ≤ i)
    {b : Byte} (hf : frameValid f = true) (hg : frameValid (f.set i b) = true) : b = f[i] := by
  have htake : (f.set i b).take 8 = f.take 8 := List.take_set_of_le h8
  have hword : rd16 (f.set i b) 8 = rd16 f 8 := by
    rw [frameValid, beq_iff_eq] at hf hg
    rw [hg, hf, htake]
  have hdrop : (f.set i b).drop 8 = f.drop 8 := by
    rw [← le16_rd16_last _ 8 (by simpa using hlen), hword, le16_rd16_last f 8 hlen]
  have hset : f.set i b = f := by rw [← List.take_append_drop 8 (f.set i b), htake, hdrop, List.take_append_drop]
  calc b = (f.set i b)[i]'(by simpa using hi) := (List.getElem_set_self _).symm
    _ = f[i] := by simp only [hset]

/-- A valid frame with any one byte changed is not valid. -/
theorem frameValid_set_of_ne {f : List Byte} {i : Nat} (hi : i < f.length) (hlen : f.length = 10)
    (hf : frameValid f = true) {b : Byte} (hb : b ≠ f[i]) : frameValid (f.set i b) = false := by
  rw [Bool.eq_false_iff]
  intro hg
  by_cases h8 : i < 8
  · exact hb (eq_of_frameValid_set_header hi h8 hf hg)
  · exact hb (eq_of_frameValid_set_word hi hlen (by omega) hf hg)

/-- A byte with one of its bits flipped is another byte. -/
theorem xor_twoPow_ne (a : Byte) {k : Nat} (hk : k < 8) : a ^^^ BitVec.twoPow 8 k ≠ a := by
  intro h
  have hbit := congrArg (·.getLsbD k) h
  simp [hk] at hbit

/-- Permuting bytes leaves their sum (R90). -/
theorem byteSum_perm {s t : List Byte} (h : s.Perm t) : byteSum s = byteSum t := (h.map BitVec.toNat).sum_eq

/-- Frames with permuted headers and the same stored word are valid together. -/
theorem frameValid_perm {f g : List Byte} (hperm : (f.take 8).Perm (g.take 8)) (hdrop : f.drop 8 = g.drop 8) :
    frameValid f = frameValid g := by
  rw [frameValid, frameValid, rd16_drop f, rd16_drop g, hdrop, cksum16, cksum16, byteSum_perm hperm]

/-- Settles O11: the round trip, the stored word, a changed byte and a permuted header. -/
theorem frameCodecLaws : Obligations.FrameCodecLaws := by
  unfold Obligations.FrameCodecLaws
  refine ⟨fcDecode_fcEncode, fun tag p1 p2 => ?_, fun f i k hi hlen hk hf => ?_,
    fun f g _ _ hperm hdrop => frameValid_perm hperm hdrop⟩
  · rw [rd16_fcEncode_eight, fcEncode_take]
  · exact fcDecode_of_invalid (frameValid_set_of_ne hi hlen hf (xor_twoPow_ne f[i] hk))

/-! ## `FC_ENCODE` (R86) -/

/-- The four bytes of a tag are a tag argument. -/
theorem tagArg_bytes (t : Tag) : tagArg t.bytes = some t := rfl

/-- `FC_ENCODE` of a tag returns the frame and changes nothing else. -/
theorem exec_fcEncode {s : State} (hp : s.phase = .idle) (tag : Tag) (p1 p2 : Word) :
    exec (.fcEncode tag.bytes p1 p2) s = .next (s.respond (.bytes (fcEncode tag p1 p2))) := by
  simp only [exec, execFcEncode, whenIdle_idle hp, tagArg_bytes]

/-- The last byte of a frame is at most 7: it is the high byte of a sum of at most 2040. -/
theorem fcEncode_last_le (tag : Tag) (p1 p2 : Word) : ((fcEncode tag p1 p2).getD 9 0).toNat ≤ 7 := by
  have hlast : (fcEncode tag p1 p2).getD 9 0 = (cksum16 (fcHeader tag p1 p2)).extractLsb' 8 8 := rfl
  have hsum := byteSum_le_of_length_le (fcHeader_length tag p1 p2).le
  rw [hlast, BitVec.extractLsb'_toNat, cksum16_toNat_of_length_le (fcHeader_length tag p1 p2).le,
    Nat.shiftRight_eq_div_pow]
  omega

/-- With zero parameters the stored word is the byte sum of the tag. -/
theorem rd16_fcEncode_zero (tag : Tag) : (rd16 (fcEncode tag 0 0) 8).toNat = byteSum tag.bytes := by
  have hzero : byteSum (le16 0) = 0 := rfl
  rw [rd16_fcEncode_eight, cksum16_toNat_of_length_le (fcHeader_length tag 0 0).le, fcHeader, byteSum_append,
    byteSum_append, hzero, add_zero, add_zero]

/-- No tag of R67 has the byte sum zero. -/
theorem byteSum_tag_ne_zero : ∀ tag ∈ [tagStat, tagRead, tagWrit, tagWsta], byteSum tag.bytes ≠ 0 := by decide

/-- Settles O8: the frame, the refusal, the bounds, the four tags and the example. -/
theorem fcEncodeBuildsFrame : Obligations.FcEncodeBuildsFrame := by
  unfold Obligations.FcEncodeBuildsFrame
  intro s hp
  refine ⟨exec_fcEncode hp, fun _ p1 p2 h => exec_fcEncode_refused hp p1 p2 h, fun tag p1 p2 => ?_,
    fun tag htag => ?_, exec_fcEncode hp tagStat 0x0402 0x0000⟩
  · exact ⟨cksum16_toNat_of_length_le (fcHeader_length tag p1 p2).le, fcEncode_length tag p1 p2,
      fcEncode_last_le tag p1 p2⟩
  · refine ⟨rd16_fcEncode_zero tag, fun hzero => byteSum_tag_ne_zero tag htag ?_⟩
    rw [← rd16_fcEncode_zero, hzero]
    rfl

/-! ## `FC_DECODE` (R87) -/

/-- `FC_DECODE` of ten bytes returns what they decode to and changes nothing else. -/
theorem exec_fcDecode {s : State} (hp : s.phase = .idle) {f : List Byte} (hlen : f.length = 10) {r : FrameResult}
    (hr : fcDecode f = r) : exec (.fcDecode f) s = .next (s.respond (.frame r)) := by
  rw [← hr]
  simp only [exec, execFcDecode, whenIdle_idle hp, if_pos hlen]

/-- `FC_DECODE` of ten bytes written out: bytes 8 and 9 against the checksum of bytes 0 to 7, then the fields. -/
theorem fcDecode_bytes (a0 a1 a2 a3 a4 a5 a6 a7 a8 a9 : Byte) :
    fcDecode [a0, a1, a2, a3, a4, a5, a6, a7, a8, a9] =
      if rd16 [a8, a9] 0 = cksum16 [a0, a1, a2, a3, a4, a5, a6, a7]
        then .ok ⟨a0, a1, a2, a3⟩ (rd16 [a4, a5] 0) (rd16 [a6, a7] 0)
        else .checksumInvalid := by
  have hvalid : frameValid [a0, a1, a2, a3, a4, a5, a6, a7, a8, a9] =
      (rd16 [a8, a9] 0 == cksum16 [a0, a1, a2, a3, a4, a5, a6, a7]) := rfl
  simp only [fcDecode, hvalid, beq_iff_eq]
  rfl

/-- Settles O9: the two results, the refusal, then each corner and example from what its bytes decode to. -/
theorem fcDecodeChecksFrame : Obligations.FcDecodeChecksFrame := by
  unfold Obligations.FcDecodeChecksFrame
  intro s hp
  refine ⟨fun a0 a1 a2 a3 a4 a5 a6 a7 a8 a9 => ?_, fun _ h => exec_fcDecode_refused hp h, ?_,
    fun f hlen hge => ?_, ?_, ?_⟩
  · exact exec_fcDecode hp rfl (fcDecode_bytes a0 a1 a2 a3 a4 a5 a6 a7 a8 a9)
  · exact exec_fcDecode hp rfl (by decide)
  · exact exec_fcDecode hp hlen (fcDecode_of_invalid (frameValid_of_ge hge))
  · exact exec_fcDecode hp rfl (by decide)
  · exact exec_fcDecode hp rfl (by decide)

end Sys2Proof.Machine
end

section
/-!
PROOFS of the statements on the Track Transfer Codec (41_track_codec.md R93 to R99): the running sum is the byte sum mod
65536, so that it depends on that sum only; a sequence is accepted exactly when it is a payload of the expected length
with its checksum appended; then the three operations.
-/
namespace Sys2Proof.Machine

/-! ## The running sum (R93, R96, R99) -/

/-- The running sum starts at zero, so it is the byte sum mod 65536. -/
theorem tcChecksum_eq (p : List Byte) : tcChecksum p = cksum16 p := by
  rw [tcChecksum, tcChecksum_foldl]
  exact BitVec.zero_add _

/-- The checksum depends on the byte sum mod 65536 and on nothing else. -/
theorem cksum16_eq_iff {s t : List Byte} : cksum16 s = cksum16 t ↔ byteSum s % 65536 = byteSum t % 65536 := by
  rw [← BitVec.toNat_inj, cksum16_toNat, cksum16_toNat]

/-- Permuting bytes leaves their checksum. -/
theorem cksum16_perm {s t : List Byte} (h : s.Perm t) : cksum16 s = cksum16 t := by
  rw [cksum16, cksum16, byteSum_perm h]

/-- `n` equal bytes sum to `n` times the byte. -/
theorem byteSum_replicate (n : Nat) (b : Byte) : byteSum (List.replicate n b) = n * b.toNat := by
  rw [byteSum, List.map_replicate, List.sum_replicate, smul_eq_mul]

/-- The checksum of a track of 2192 bytes `0x01`, the example of R93 and R94. -/
theorem cksum16_replicate_one : cksum16 (List.replicate 2192 0x01) = 0x0890 := by
  rw [cksum16, byteSum_replicate]
  rfl

/-- `TC_CHECKSUM` returns the checksum and changes nothing else. -/
theorem exec_tcChecksum {s : State} (hp : s.phase = .idle) {p : List Byte} {w : Word} (hw : cksum16 p = w) :
    exec (.tcChecksum p) s = .next (s.respond (.word w)) := by
  rw [← hw, ← tcChecksum_eq]
  exact whenIdle_idle hp

/-- Settles O12: each clause is the checksum, in the form it takes there. -/
theorem tcChecksumIsRunningSum : Obligations.TcChecksumIsRunningSum := by
  unfold Obligations.TcChecksumIsRunningSum
  intro s hp
  refine ⟨fun p => ⟨exec_tcChecksum hp (tcChecksum_eq p).symm, exec_tcChecksum hp rfl, cksum16_toNat p⟩,
    exec_tcChecksum hp rfl, fun p q h => ?_, exec_tcChecksum hp cksum16_replicate_one⟩
  rw [exec_tcChecksum hp (cksum16_perm h), exec_tcChecksum hp rfl]

/-! ## The payload with its checksum (R94) -/

/-- The two bytes behind the payload as numbers: the low and the high byte of its sum. -/
theorem tcAppend_eq (p : List Byte) :
    tcAppend p = p ++ [BitVec.ofNat 8 (byteSum p % 256), BitVec.ofNat 8 (byteSum p / 256 % 256)] := by
  have hlow : byteSum p % 65536 % 256 = byteSum p % 256 := by omega
  have hhigh : byteSum p % 65536 / 256 = byteSum p / 256 % 256 := by omega
  rw [tcAppend, le16_eq, cksum16_toNat, hlow, hhigh]

/-- What stands before the checksum is the payload. -/
@[simp] theorem tcAppend_take (p : List Byte) : (tcAppend p).take p.length = p := List.take_left

/-- The word behind the payload is its checksum. -/
@[simp] theorem rd16_tcAppend (p : List Byte) : rd16 (tcAppend p) p.length = cksum16 p := by
  rw [tcAppend, rd16_append]
  exact rd16_le16 _ []

/-- `TC_APPEND` returns the payload with its checksum and changes nothing else. -/
theorem exec_tcAppend {s : State} (hp : s.phase = .idle) {p r : List Byte} (hr : tcAppend p = r) :
    exec (.tcAppend p) s = .next (s.respond (.bytes r)) := by
  rw [← hr]
  exact whenIdle_idle hp

/-- Settles O13: the laws of the appended sequence, the empty payload and the example. -/
theorem tcAppendAddsChecksum : Obligations.TcAppendAddsChecksum := by
  unfold Obligations.TcAppendAddsChecksum
  intro s hp
  refine ⟨fun p => ⟨tcAppend p, exec_tcAppend hp rfl, tcAppend_length p, tcAppend_take p, rd16_tcAppend p,
    tcAppend_eq p⟩, exec_tcAppend hp rfl, exec_tcAppend hp ?_⟩
  rw [tcAppend, cksum16_replicate_one]
  rfl

/-! ## Acceptance (R95, R97 to R99) -/

/-- A sequence of another length is refused, whatever its checksum (R97). -/
theorem tcValidate_of_length_ne {x : List Byte} {e : Nat} (h : x.length ≠ e + 2) : tcValidate x e = .lengthMismatch :=
  if_pos h

/-- A sequence is accepted with a payload exactly when it is that payload, of the expected length, with its checksum
appended. -/
theorem tcValidate_eq_ok_iff {x p : List Byte} {e : Nat} : tcValidate x e = .ok p ↔ p.length = e ∧ x = tcAppend p := by
  by_cases hlen : x.length = e + 2
  · rcases tcValidate_cases x e hlen with ⟨q, rfl, rfl, hok⟩ | ⟨hne, hbad⟩
    · rw [hok, TrackResult.ok.injEq]
      constructor
      · rintro rfl
        exact ⟨rfl, rfl⟩
      · rintro ⟨hpq, happ⟩
        rw [← tcAppend_take q, happ, ← hpq, tcAppend_take]
    · rw [hbad]
      exact iff_of_false nofun fun h => hne p h.2
  · rw [tcValidate_of_length_ne hlen]
    refine iff_of_false nofun ?_
    rintro ⟨rfl, rfl⟩
    exact hlen (tcAppend_length p)

/-- `TC_APPEND` is accepted and returns its payload. -/
theorem tcValidate_tcAppend (p : List Byte) : tcValidate (tcAppend p) p.length = .ok p :=
  tcValidate_eq_ok_iff.mpr ⟨rfl, rfl⟩

/-- Two bytes behind a payload are compared, as a number with the low byte first, with the sum of the payload. -/
theorem tcValidate_append (p : List Byte) (a b : Byte) :
    tcValidate (p ++ [a, b]) p.length =
      if a.toNat + 256 * b.toNat = byteSum p % 65536 then .ok p else .checksumInvalid := by
  have hword : a.toNat + 256 * b.toNat = byteSum p % 65536 ↔ rd16 [a, b] 0 = cksum16 p := by
    rw [← BitVec.toNat_inj, rd16_cons_toNat, cksum16_toNat]
  have hlen : (p ++ [a, b]).length = p.length + 2 := List.length_append
  rw [tcValidate, if_neg (not_not_intro hlen), rd16_append, List.take_left, ite_not, if_congr hword rfl rfl]

/-- Settles O15: the ways to be accepted, and what stands before the checksum is the payload. -/
theorem trackAcceptedIffAppended : Obligations.TrackAcceptedIffAppended := by
  unfold Obligations.TrackAcceptedIffAppended
  refine ⟨tcValidate_tcAppend, fun x e hlen => ⟨?_, fun hx => ⟨x.take e, ?_⟩⟩⟩
  · rintro ⟨p, hok⟩
    obtain ⟨rfl, rfl⟩ := tcValidate_eq_ok_iff.mp hok
    rw [tcAppend_take]
  · exact tcValidate_eq_ok_iff.mpr ⟨List.length_take_of_le (by omega), hx⟩

/-- Settles O16: the checksum is a function of the byte sum mod 65536, so the payload received has the checksum of the
payload sent. -/
theorem trackChecksumBlindSpots : Obligations.TrackChecksumBlindSpots := by
  unfold Obligations.TrackChecksumBlindSpots
  refine ⟨fun p hsum => ?_, fun sent got hlen hsum => ?_⟩
  · rw [tcChecksum_eq]
    exact (cksum16_eq_iff (t := [])).mpr hsum
  · rw [← cksum16_eq_iff.mpr hsum]
    exact tcValidate_eq_ok_iff.mpr ⟨hlen, rfl⟩

/-! ## `TC_VALIDATE` (R95) -/

/-- `TC_VALIDATE` returns the verdict and changes nothing else. -/
theorem exec_tcValidate {s : State} (hp : s.phase = .idle) {x : List Byte} {e : Nat} {r : TrackResult}
    (hr : tcValidate x e = r) : exec (.tcValidate x e) s = .next (s.respond (.track r)) := by
  rw [← hr]
  exact whenIdle_idle hp

/-- Only the verdict itself is returned. -/
theorem exec_tcValidate_iff {s : State} (hp : s.phase = .idle) {x : List Byte} {e : Nat} {r : TrackResult} :
    exec (.tcValidate x e) s = .next (s.respond (.track r)) ↔ tcValidate x e = r := by
  refine ⟨fun h => ?_, exec_tcValidate hp⟩
  rw [exec_tcValidate hp rfl, Host.Outcome.next.injEq] at h
  have hret : some (HostResult.track (tcValidate x e)) = some (.track r) := congrArg State.ret h
  rwa [Option.some.injEq, HostResult.track.injEq] at hret

/-- Settles O14: the length, then the checksum; for `E = 0` the only sequence accepted is the empty payload with its
checksum. -/
theorem tcValidateDecides : Obligations.TcValidateDecides := by
  unfold Obligations.TcValidateDecides
  intro s hp
  refine ⟨fun x e hlen => exec_tcValidate hp (tcValidate_of_length_ne hlen),
    fun p a b => exec_tcValidate hp (tcValidate_append p a b), fun x => ?_,
    fun p => exec_tcValidate hp (tcValidate_tcAppend p), exec_tcValidate hp (tcValidate_of_length_ne (by decide))⟩
  calc exec (.tcValidate x 0) s = .next (s.respond (.track (.ok [])))
      ↔ tcValidate x 0 = .ok [] := exec_tcValidate_iff hp
    _ ↔ List.length ([] : List Byte) = 0 ∧ x = tcAppend [] := tcValidate_eq_ok_iff
    _ ↔ x = [0x00, 0x00] := and_iff_right rfl

end Sys2Proof.Machine
end

section
/-!
PROOFS of the statements on the accept steps of an exchange and on the wire frames as instructions (42_session.md R100
to R104, R106 to R109): what each of these operations does where it has a meaning, and that it has none elsewhere.
-/
namespace Sys2Proof.Machine

variable {s t : State}

/-! ## The accept steps (R101 to R103) -/

/-- A track and a drive make the word `track + 4096 * drive` (R70): the fields do not overlap. -/
theorem packTrack_driveNibble {track : Nat} (h : track < 4096) (d : Fin 4) :
    packTrack (BitVec.ofNat 12 track) (driveNibble d) = BitVec.ofNat 16 (track + 4096 * d.val) := by
  have hd := d.isLt
  apply BitVec.eq_of_toNat_eq
  simp only [packTrack, driveNibble, BitVec.toNat_or, BitVec.toNat_shiftLeft, BitVec.toNat_setWidth, BitVec.toNat_ofNat]
  rw [Nat.mod_eq_of_lt (show track < 2 ^ 12 by omega), Nat.mod_eq_of_lt (show track < 2 ^ 16 by omega),
    Nat.mod_eq_of_lt (show d.val < 2 ^ 4 by omega), Nat.mod_eq_of_lt (show d.val < 2 ^ 16 by omega),
    Nat.mod_eq_of_lt (show d.val <<< 12 < 2 ^ 16 by rw [Nat.shiftLeft_eq]; omega), Nat.or_comm,
    ← Nat.shiftLeft_add_eq_or_of_lt (show track < 2 ^ 12 by omega), Nat.shiftLeft_eq]
  omega

/-- A frame put into `CMD` stands there alone. -/
theorem memWrite_fcEncode (b : Buffer 10) (tag : Tag) (p1 p2 : Word) :
    (memWrite b 0 (fcEncode tag p1 p2)).toList = fcEncode tag p1 p2 :=
  memWrite_whole b (fcEncode_length tag p1 p2)

/-- Settles O22: the accept step of R101, whatever `SEL` is. -/
theorem exStatAccepts : Obligations.ExStatAccepts := by
  unfold Obligations.ExStatAccepts
  intro s hp
  exact ⟨_, whenIdle_idle hp, memWrite_fcEncode s.cmd _ _ _⟩

theorem exec_exRead_noDrive (hp : s.phase = .idle) (hs : s.sel = none) {track : Nat} (g : Geometry)
    (h : track < 4096) : exec (.exRead track g) s = .next (s.finish .invalidDrive) := by
  simp only [exec, execExRead, whenIdle_idle hp, trackArg_of_lt h, hs]

theorem exec_exRead_drive (hp : s.phase = .idle) {d : Fin 4} (hs : s.sel = some d) {track : Nat} (g : Geometry)
    (h : track < 4096) :
    exec (.exRead track g) s = .next ((s.latchLen g).beginExchange .read
      (fcEncode tagRead (packTrack (BitVec.ofNat 12 track) (driveNibble d)) (lenWord g))) := by
  simp only [exec, execExRead, whenIdle_idle hp, trackArg_of_lt h, hs]

theorem exec_exWrit_noDrive (hp : s.phase = .idle) (hs : s.sel = none) {track : Nat} {g : Geometry} {data : List Byte}
    (h : track < 4096) (hlen : data.length = g.trackLen) :
    exec (.exWrit track g data) s = .next (s.finish .invalidDrive) := by
  simp only [exec, execExWrit, whenIdle_idle hp, trackArg_of_lt h, if_neg (not_not_intro hlen), hs]

theorem exec_exWrit_drive (hp : s.phase = .idle) {d : Fin 4} (hs : s.sel = some d) {track : Nat} {g : Geometry}
    {data : List Byte} (h : track < 4096) (hlen : data.length = g.trackLen) :
    exec (.exWrit track g data) s = .next (((s.latchLen g).latchPayload data).beginExchange .writ
      (fcEncode tagWrit (packTrack (BitVec.ofNat 12 track) (driveNibble d)) (lenWord g))) := by
  simp only [exec, execExWrit, whenIdle_idle hp, trackArg_of_lt h, if_neg (not_not_intro hlen), hs]

/-- Settles O23: the accept step of R102 without a drive and with one. -/
theorem exReadAccepts : Obligations.ExReadAccepts := by
  unfold Obligations.ExReadAccepts
  refine ⟨rfl, rfl, rfl, rfl, fun _ => rfl, fun s track g hp htrack => ⟨fun hs => ?_, fun d hs => ?_⟩⟩
  · exact exec_exRead_noDrive hp hs g htrack
  · rw [← packTrack_driveNibble htrack d]
    exact ⟨_, exec_exRead_drive hp hs g htrack, memWrite_fcEncode s.cmd _ _ _⟩

/-- A payload of the track length that is latched is what `TB[0..L-1]` then holds (R62). -/
theorem memRead_latchPayload (s : State) {g : Geometry} {data : List Byte} (hlen : data.length = g.trackLen) :
    memRead ((s.latchLen g).latchPayload data).tb 0 g.trackLen = data := by
  have hfits := trackLen_le g
  rw [← hlen]
  exact memRead_memWrite_front s.tb (by omega)

/-- Settles O24: the accept step of R103 without a drive and with one; the payload is written at the front of `TB`. -/
theorem exWritAccepts : Obligations.ExWritAccepts := by
  unfold Obligations.ExWritAccepts
  refine ⟨rfl, rfl, rfl, rfl, fun _ => rfl, fun s track g data hp htrack hlen => ⟨fun hs => ?_, fun d hs => ?_⟩⟩
  · exact exec_exWrit_noDrive hp hs htrack hlen
  · rw [← packTrack_driveNibble htrack d]
    exact ⟨_, _, exec_exWrit_drive hp hs htrack hlen, memWrite_fcEncode s.cmd _ _ _, memRead_latchPayload s hlen,
      fun j hj hge => memWrite_getElem_out s.tb hj (.inr (by omega))⟩

/-! ## Host operations while an exchange is in flight (R100) -/

theorem exec_host_busy (hp : s.phase ≠ .idle) {i : Instr} (hi : i.port = .host) :
    exec i s = .refused .hostBlocked := by
  cases i with
  | reqStat => cases hi
  | reqRead => cases hi
  | reqWrit => cases hi
  | rspStat => cases hi
  | rspWrit => cases hi
  | rspWsta => cases hi
  | exStat => exact whenIdle_busy hp
  | exRead => exact whenIdle_busy hp
  | exWrit => exact whenIdle_busy hp
  | dsSelect => exact whenIdle_busy hp
  | dsHead => exact whenIdle_busy hp
  | dsHeadmap => exact whenIdle_busy hp
  | fcEncode => exact whenIdle_busy hp
  | fcDecode => exact whenIdle_busy hp
  | tcChecksum => exact whenIdle_busy hp
  | tcAppend => exact whenIdle_busy hp
  | tcValidate => exact whenIdle_busy hp

/-- Sending the command touches the Host's side nowhere. -/
theorem transmitCommand_host (frame : List Byte) (s : State) :
    (transmitCommand frame s).pending = s.pending ∧ (transmitCommand frame s).ret = s.ret := by
  rcases transmitCommand_cases frame s with ⟨-, heq⟩ | ⟨-, heq⟩ <;> rw [heq] <;> exact ⟨rfl, rfl⟩

/-- Sending the payload touches the Host's side nowhere. -/
theorem sendPayload_host (s : State) : (sendPayload s).pending = s.pending ∧ (sendPayload s).ret = s.ret := by
  rcases sendPayload_cases s with ⟨-, heq⟩ | ⟨-, heq⟩ <;> rw [heq] <;> exact ⟨rfl, rfl⟩

theorem step_frameWait_host (hw : s.phase = .awaitFrame ∨ s.phase = .awaitWsta) (h : step s = .next t) :
    t.pending = s.pending ∧ t.ret = s.ret := by
  obtain ⟨a, c, -, ⟨-, rfl⟩ | ⟨-, rfl⟩ | ⟨v, -, -, -, hcase⟩⟩ := step_frameWait_next hw h
  · exact ⟨rfl, rfl⟩
  · exact ⟨rfl, rfl⟩
  rcases hcase with ⟨-, rfl⟩ | ⟨-, -, rfl⟩ | ⟨-, tag, rc, rd, -, hjudged⟩
  · exact ⟨rfl, rfl⟩
  · exact ⟨rfl, rfl⟩
  · rcases hjudged with ⟨-, -, rfl⟩ | ⟨-, -, -, -, rfl⟩ | ⟨-, -, o, -, rfl⟩ | ⟨-, rfl⟩ <;> exact ⟨rfl, rfl⟩

theorem step_payload_host (hp : s.phase = .awaitPayload) (h : step s = .next t) :
    t.pending = s.pending ∧ t.ret = s.ret := by
  obtain ⟨a, c, -, ⟨-, rfl⟩ | ⟨-, rfl⟩ | ⟨v, -, -, -, ⟨-, rfl⟩ | ⟨-, ⟨p, -, rfl⟩ | rfl⟩⟩⟩ := step_payload_next hp h <;>
    exact ⟨rfl, rfl⟩

/-- No step of an exchange touches the Host's side before `DONE`. -/
theorem step_host (hidle : s.phase ≠ .idle) (hdone : s.phase ≠ .done) (h : step s = .next t) :
    t.pending = s.pending ∧ t.ret = s.ret := by
  cases hp : s.phase with
  | idle => exact absurd hp hidle
  | sendCmd =>
    obtain rfl : transmitCommand s.cmd.toList s = t := Host.Outcome.next.inj ((step_sendCmd hp).symm.trans h)
    exact transmitCommand_host _ s
  | awaitFrame => exact step_frameWait_host (.inl hp) h
  | awaitPayload => exact step_payload_host hp h
  | readyToSend =>
    obtain rfl : sendPayload s = t := Host.Outcome.next.inj ((step_ready hp).symm.trans h)
    exact sendPayload_host s
  | awaitWsta => exact step_frameWait_host (.inr hp) h
  | done => exact absurd hp hdone

/-- Settles O26: no operation runs, and only the step in `DONE` touches the Host's side, by returning `OUT`. -/
theorem hostWaitsForExchange : Obligations.HostWaitsForExchange := by
  unfold Obligations.HostWaitsForExchange
  intro s hp
  refine ⟨fun i hi => exec_host_busy hp hi, fun t h => ?_⟩
  by_cases hdone : s.phase = .done
  · obtain rfl : s.returnOutcome = t := Host.Outcome.next.inj ((step_done hdone).symm.trans h)
    exact ⟨rfl, fun _ => ⟨hdone, rfl⟩⟩
  · obtain ⟨hpending, hret⟩ := step_host hp hdone h
    exact ⟨hpending, fun hne => absurd hret hne⟩

/-! ## Request frames (R104) -/

theorem firstWait_eq (k : Kind) : firstWait k = if k = .read then .awaitPayload else .awaitFrame := by
  cases k <;> rfl

/-- A frame of ten bytes that is taken whole begins the first wait. -/
theorem transmitCommand_of_written {frame : List Byte} (hlen : frame.length = 10)
    (h : (s.chan.write frame).1 = .written 10) :
    transmitCommand frame s = { s with
      chan := (s.chan.write frame).2, fn := 0, tn := 0,
      phase := if s.kind = .read then .awaitPayload else .awaitFrame } := by
  rw [← firstWait_eq]
  rcases transmitCommand_cases frame s with ⟨-, heq⟩ | ⟨hne, -⟩
  · exact heq
  · rw [hlen] at hne
    exact absurd h hne

/-- A frame of ten bytes that is not taken whole ends the exchange. -/
theorem transmitCommand_of_not_written {frame : List Byte} (hlen : frame.length = 10)
    (h : (s.chan.write frame).1 ≠ .written 10) :
    transmitCommand frame s = { s with chan := (s.chan.write frame).2, out := .ioError, phase := .done } := by
  rcases transmitCommand_cases frame s with ⟨heq, -⟩ | ⟨-, heq⟩
  · rw [hlen] at heq
    exact absurd heq h
  · exact heq

/-- A request row runs by being sent, and it is a frame of ten bytes. -/
theorem exec_request {i : Instr} (hi : i.port = .request) (s : State) :
    exec i s = sendRequest i s ∧ (encode i).length = 10 := by
  cases i with
  | reqStat => exact ⟨rfl, rfl⟩
  | reqRead => exact ⟨rfl, rfl⟩
  | reqWrit => exact ⟨rfl, rfl⟩
  | rspStat => cases hi
  | rspWrit => cases hi
  | rspWsta => cases hi
  | exStat => cases hi
  | exRead => cases hi
  | exWrit => cases hi
  | dsSelect => cases hi
  | dsHead => cases hi
  | dsHeadmap => cases hi
  | fcEncode => cases hi
  | fcDecode => cases hi
  | tcChecksum => cases hi
  | tcAppend => cases hi
  | tcValidate => cases hi

/-- Settles O27: a request row is its frame being sent, in `SEND_CMD` only. -/
theorem requestFramesAreSent : Obligations.RequestFramesAreSent := by
  unfold Obligations.RequestFramesAreSent
  intro i s hi
  obtain ⟨hexec, hlen⟩ := exec_request hi s
  rw [hexec]
  refine ⟨fun hp hw => ?_, fun hp hw => ?_, fun hp => if_neg hp⟩
  · rw [← transmitCommand_of_written hlen hw]
    exact sendRequest_next.mpr ⟨hp, rfl⟩
  · rw [← transmitCommand_of_not_written hlen hw]
    exact sendRequest_next.mpr ⟨hp, rfl⟩

/-- Settles O32: the step sends `CMD`, which is ten bytes whatever they are. -/
theorem sendCmdStepWritesCommand : Obligations.SendCmdStepWritesCommand := by
  unfold Obligations.SendCmdStepWritesCommand
  intro s hp
  have hlen : s.cmd.toList.length = 10 := Vector.length_toList
  rw [step_sendCmd hp]
  exact ⟨fun hw => congrArg _ (transmitCommand_of_written hlen hw),
    fun hw => congrArg _ (transmitCommand_of_not_written hlen hw)⟩

/-! ## Response frames (R106 to R109) -/

section Arbiter

variable (tag : Tag) (rcode rdata : Word)

theorem arbitrate_stat (hp : s.phase = .awaitFrame) (hk : s.kind = .stat) :
    arbitrate tag rcode rdata s = .next (s.finish (statVerdict tag rdata)) := by
  simp only [arbitrate, hp, hk]

theorem arbitrate_ack (hp : s.phase = .awaitFrame) (hk : s.kind = .writ) :
    arbitrate tag rcode rdata s = .next (acknowledge tag rcode s) := by
  simp only [arbitrate, hp, hk]

theorem arbitrate_final (hp : s.phase = .awaitWsta) :
    arbitrate tag rcode rdata s = .next (s.finish (finalVerdict tag rcode)) := by
  simp only [arbitrate, hp]

theorem arbitrate_not_waiting (hf : s.phase ≠ .awaitFrame) (hw : s.phase ≠ .awaitWsta) :
    arbitrate tag rcode rdata s = .refused .notAwaitingFrame := by
  cases hp : s.phase with
  | awaitFrame => exact absurd hp hf
  | awaitWsta => exact absurd hp hw
  | idle => simp only [arbitrate, hp]
  | sendCmd => simp only [arbitrate, hp]
  | awaitPayload => simp only [arbitrate, hp]
  | readyToSend => simp only [arbitrate, hp]
  | done => simp only [arbitrate, hp]

variable {tag rcode}

theorem statVerdict_mismatch (h : tag ≠ tagStat) : statVerdict tag rdata = .tagMismatch tagStat tag := if_pos h

theorem ackVerdict_mismatch (h : tag ≠ tagWrit) : ackVerdict tag rcode = some (.tagMismatch tagWrit tag) := if_pos h

theorem finalVerdict_mismatch (h : tag ≠ tagWsta) : finalVerdict tag rcode = .tagMismatch tagWsta tag := if_pos h

/-- An acknowledgement with a verdict ends the exchange with it. -/
theorem acknowledge_of_some {o : ExOutcome} (h : ackVerdict tag rcode = some o) (s : State) :
    acknowledge tag rcode s = s.finish o := by
  simp only [acknowledge, h]

/-- An acknowledgement without a verdict lets the payload be sent. -/
theorem acknowledge_of_none (h : ackVerdict tag rcode = none) (s : State) :
    acknowledge tag rcode s = s.setPhase .readyToSend := by
  simp only [acknowledge, h]

end Arbiter

/-- Settles O28: a response row is its frame being judged, by the rule of the wait. -/
theorem responseFramesAreJudged : Obligations.ResponseFramesAreJudged := by
  unfold Obligations.ResponseFramesAreJudged
  intro s rcode rdata
  refine ⟨fun hp hk => ?_, fun hp hk => ?_, fun hp => ?_, fun hf hw => ?_⟩
  · have hjudged (tag : Tag) := arbitrate_stat tag rcode rdata hp hk
    refine ⟨hjudged tagStat, (hjudged tagWrit).trans ?_, (hjudged tagWsta).trans ?_⟩
    · rw [statVerdict_mismatch rdata (by decide)]; rfl
    · rw [statVerdict_mismatch rdata (by decide)]; rfl
  · have hjudged (tag : Tag) := arbitrate_ack tag rcode rdata hp hk
    refine ⟨(hjudged tagStat).trans ?_, fun h0 => (hjudged tagWrit).trans ?_, fun h0 => (hjudged tagWrit).trans ?_,
      (hjudged tagWsta).trans ?_⟩
    · rw [acknowledge_of_some (ackVerdict_mismatch (by decide))]; rfl
    · rw [h0, acknowledge_of_none rfl]; rfl
    · rw [acknowledge_of_some (ackVerdict_refusal h0)]; rfl
    · rw [acknowledge_of_some (ackVerdict_mismatch (by decide))]; rfl
  · have hjudged (tag : Tag) := arbitrate_final tag rcode rdata hp
    refine ⟨(hjudged tagStat).trans ?_, (hjudged tagWrit).trans ?_, fun h0 => (hjudged tagWsta).trans ?_,
      fun h0 => (hjudged tagWsta).trans ?_⟩
    · rw [finalVerdict_mismatch (by decide)]; rfl
    · rw [finalVerdict_mismatch (by decide)]; rfl
    · rw [h0]; rfl
    · rw [finalVerdict_refusal h0]; rfl
  · have hjudged (tag : Tag) := arbitrate_not_waiting tag rcode rdata hf hw
    exact ⟨hjudged tagStat, hjudged tagWrit, hjudged tagWsta⟩

/-! ## A step runs the decoded instruction -/

/-- Settles O29: the step in `IDLE`, by what is pending. -/
theorem stepRunsHostOperation : Obligations.StepRunsHostOperation := by
  unfold Obligations.StepRunsHostOperation
  intro s hp
  refine ⟨fun msg rest i hq hd => ?_, fun hq => ?_⟩
  · have hdrop : s.dropPending = { s with pending := rest } := by rw [State.dropPending, hq, List.tail_cons]
    rw [← hdrop]
    simp only [step_idle hp, hq, hd]
  · simp only [step_idle hp, hq]

/-- Settles O30: the step sends `CMD`, and so does the request that `CMD` decodes to. -/
theorem stepRunsRequestFrame : Obligations.StepRunsRequestFrame := by
  unfold Obligations.StepRunsRequestFrame
  intro s i hp hd
  obtain ⟨hexec, hcmd⟩ := exec_decode_request hd s
  rw [step_sendCmd hp, hexec, ← hcmd]
  exact (sendRequest_next.mpr ⟨hp, rfl⟩).symm

end Sys2Proof.Machine
end

section
/-!
PROOFS of the statements on the engine's steps in a wait and after it (42_session.md R105 to R114, R116): what a step
does with each answer of the Channel, from the answer to the next state.
-/
namespace Sys2Proof.Machine

variable {s : State} {c : Channel} {v : List Byte}

/-! ## The frame waits (R105) -/

theorem frameAttempt_of_ioError (h : s.chan.read (10 - s.fn) .frame = (.ioError, c)) :
    frameAttempt s = .ended ((s.setChan c).finish .ioError) := by
  simp only [frameAttempt, h]

theorem frameAttempt_of_nil (h : s.chan.read (10 - s.fn) .frame = (.bytes [], c)) :
    frameAttempt s = .ended ((s.setChan c).finish .timeout) := by
  simp only [frameAttempt, h, List.isEmpty_nil, if_true]

theorem frameAttempt_of_partial (h : s.chan.read (10 - s.fn) .frame = (.bytes v, c)) (hv : v ≠ [])
    (hfn : s.fn + v.length ≠ 10) : frameAttempt s = .ended ((s.setChan c).pushFrame v) := by
  simp [frameAttempt, h, hv, hfn]

theorem frameAttempt_of_full (h : s.chan.read (10 - s.fn) .frame = (.bytes v, c)) (hv : v ≠ [])
    (hfn : s.fn + v.length = 10) : frameAttempt s = .full ((s.setChan c).pushFrame v) := by
  simp [frameAttempt, h, hv, hfn]

/-- `FB` after a read that fills it: the bytes collected before, then those read. -/
theorem pushFrame_fb_of_full (c : Channel) (hfn : s.fn + v.length = 10) :
    ((s.setChan c).pushFrame v).fb.toList = memRead s.fb 0 s.fn ++ v := by
  have hprefix := memRead_memWrite_prefix s.fb hfn.le
  rwa [hfn, memRead_all] at hprefix

/-- The state after a read that fills `FB`, field by field. -/
theorem pushFrame_of_full (c : Channel) (hfn : s.fn + v.length = 10) :
    (s.setChan c).pushFrame v = { s with chan := c, fb := memWrite s.fb s.fn v, fn := 10 } := by
  simp only [State.pushFrame, State.setChan, hfn]

section FrameWait

variable (hw : s.phase = .awaitFrame ∨ s.phase = .awaitWsta)
include hw

theorem step_frameWait_ioError (h : s.chan.read (10 - s.fn) .frame = (.ioError, c)) :
    step s = .next ((s.setChan c).finish .ioError) := by
  rw [step_frameWait hw, frameAttempt_of_ioError h]

theorem step_frameWait_timeout (h : s.chan.read (10 - s.fn) .frame = (.bytes [], c)) :
    step s = .next ((s.setChan c).finish .timeout) := by
  rw [step_frameWait hw, frameAttempt_of_nil h]

theorem step_frameWait_partial (h : s.chan.read (10 - s.fn) .frame = (.bytes v, c)) (hv : v ≠ [])
    (hfn : s.fn + v.length ≠ 10) : step s = .next ((s.setChan c).pushFrame v) := by
  rw [step_frameWait hw, frameAttempt_of_partial h hv hfn]

/-- R110: a complete invalid frame is dropped. -/
theorem step_frameWait_invalid (h : s.chan.read (10 - s.fn) .frame = (.bytes v, c)) (hv : v ≠ [])
    (hfn : s.fn + v.length = 10) (hd : fcDecode (memRead s.fb 0 s.fn ++ v) = .checksumInvalid) :
    step s = .next ((s.setChan c).pushFrame v).clearFrame := by
  simp only [step_frameWait hw, frameAttempt_of_full h hv hfn, pushFrame_fb_of_full c hfn, hd, ignoreFrame]

/-- R106: a complete valid frame is judged, whatever its tag. -/
theorem step_frameWait_valid (h : s.chan.read (10 - s.fn) .frame = (.bytes v, c)) (hv : v ≠ [])
    (hfn : s.fn + v.length = 10) {tag : Tag} {rcode rdata : Word}
    (hd : fcDecode (memRead s.fb 0 s.fn ++ v) = .ok tag rcode rdata) :
    step s = arbitrate tag rcode rdata ((s.setChan c).pushFrame v) := by
  simp only [step_frameWait hw, frameAttempt_of_full h hv hfn, pushFrame_fb_of_full c hfn, hd]

end FrameWait

/-- The log of the Channel that a read answers. -/
theorem read_log_of_eq {d : Channel} {max : Nat} {b : WaitBound} {a : ReadAnswer} (h : d.read max b = (a, c)) :
    c.log = d.log ++ [.read max b a] := by
  have hlog := d.read_log max b
  rwa [h] at hlog

/-- Settles O33: the three answers that do not complete `FB`. -/
theorem frameReadAttempt : Obligations.FrameReadAttempt := by
  unfold Obligations.FrameReadAttempt
  intro s c hw
  refine ⟨step_frameWait_ioError hw, step_frameWait_timeout hw, fun v h hv hlt => ?_⟩
  exact ⟨_, step_frameWait_partial hw h hv hlt.ne, memRead_memWrite_prefix s.fb hlt.le,
    fun j hj hge => memWrite_getElem_out s.fb hj (.inr hge)⟩

/-- Settles O34: the frame is dropped, and the read is the step's one transaction. -/
theorem invalidFrameIsIgnored : Obligations.InvalidFrameIsIgnored := by
  unfold Obligations.InvalidFrameIsIgnored
  intro s v c hw h hv hfn hd
  exact ⟨step_frameWait_invalid hw h hv hfn hd, read_log_of_eq h⟩

/-- Settles O35: the frame is judged by R107. -/
theorem statWaitArbitration : Obligations.StatWaitArbitration := by
  unfold Obligations.StatWaitArbitration
  intro s v c tag rcode rdata hp hk h hv hfn hd
  rw [step_frameWait_valid (.inl hp) h hv hfn hd, arbitrate_stat (s := (s.setChan c).pushFrame v) _ _ _ hp hk,
    pushFrame_of_full c hfn, statVerdict, ite_not]
  rfl

/-- Settles O36: the frame is judged by R108, the tag before the code. -/
theorem writAckArbitration : Obligations.WritAckArbitration := by
  unfold Obligations.WritAckArbitration
  intro s v c tag rcode rdata hp hk h hv hfn hd
  rw [step_frameWait_valid (.inl hp) h hv hfn hd, arbitrate_ack (s := (s.setChan c).pushFrame v) _ _ _ hp hk,
    pushFrame_of_full c hfn]
  refine ⟨fun htag => ?_, fun htag hrc => ?_, fun htag hrc => ?_, read_log_of_eq h⟩
  · rw [acknowledge_of_some (ackVerdict_mismatch htag)]
    rfl
  · rw [htag, acknowledge_of_some (ackVerdict_refusal hrc)]
    rfl
  · rw [htag, hrc, acknowledge_of_none rfl]
    rfl

/-- Settles O37: the frame is judged by R109. -/
theorem wstaWaitArbitration : Obligations.WstaWaitArbitration := by
  unfold Obligations.WstaWaitArbitration
  intro s v c tag rcode rdata hp h hv hfn hd
  rw [step_frameWait_valid (.inr hp) h hv hfn hd, arbitrate_final (s := (s.setChan c).pushFrame v) _ _ _ hp,
    pushFrame_of_full c hfn, finalVerdict]
  rfl

/-- Settles O31: the response row is the frame in `FB` being judged. -/
theorem stepRunsResponseFrame : Obligations.StepRunsResponseFrame := by
  unfold Obligations.StepRunsResponseFrame
  intro s v c i hw h hv hfn hd
  obtain ⟨tag, rcode, rdata, hframe, hrow⟩ := decodeFrame_ok hd
  have hok : fcDecode (memRead s.fb 0 s.fn ++ v) = .ok tag rcode rdata := by rw [hframe, fcDecode_fcEncode]
  rw [step_frameWait_valid hw h hv hfn hok, pushFrame_of_full c hfn, exec_responseOf hrow]

/-! ## The payload wait (R111, R112, R114) -/

theorem payloadStep_of_ioError (h : s.chan.read (s.L + 2 - s.tn) .chunk = (.ioError, c)) :
    payloadStep s = .next ((s.setChan c).finish .ioError) := by
  simp only [payloadStep, h]

theorem payloadStep_of_nil (h : s.chan.read (s.L + 2 - s.tn) .chunk = (.bytes [], c)) :
    payloadStep s = .next ((s.setChan c).finish (.partialData s.tn)) := by
  simp only [payloadStep, h, List.isEmpty_nil, if_true]

theorem payloadStep_of_partial (h : s.chan.read (s.L + 2 - s.tn) .chunk = (.bytes v, c)) (hv : v ≠ [])
    (htn : s.tn + v.length ≠ s.L + 2) : payloadStep s = .next ((s.setChan c).pushTrack v) := by
  simp [payloadStep, h, hv, htn]

theorem payloadStep_of_full (h : s.chan.read (s.L + 2 - s.tn) .chunk = (.bytes v, c)) (hv : v ≠ [])
    (htn : s.tn + v.length = s.L + 2) : payloadStep s = checkPayload ((s.setChan c).pushTrack v) := by
  simp [payloadStep, h, hv, htn]

/-- The payload and its checksum fit into `TB` (R9). -/
theorem L_add_two_le (s : State) : s.L + 2 ≤ 4386 := Nat.add_le_add_right (trackLen_le s.len) 2

/-- What `TB` holds after a read that leaves at most `L + 2` bytes: those collected before, then those read. -/
theorem memRead_pushTrack (c : Channel) (htn : s.tn + v.length ≤ s.L + 2) :
    memRead ((s.setChan c).pushTrack v).tb 0 (s.tn + v.length) = memRead s.tb 0 s.tn ++ v :=
  memRead_memWrite_prefix s.tb (htn.trans (L_add_two_le s))

/-- The state after a read that completes the payload, field by field. -/
theorem pushTrack_of_full (c : Channel) (htn : s.tn + v.length = s.L + 2) :
    (s.setChan c).pushTrack v = { s with chan := c, tb := memWrite s.tb s.tn v, tn := s.L + 2 } := by
  rw [← htn]
  rfl

/-- R112: the check ends the exchange with the verdict on the `L + 2` bytes in `TB`. -/
theorem checkPayload_of_verdict {o : ExOutcome}
    (h : payloadVerdict (s.L + 2) (tcValidate (memRead s.tb 0 (s.L + 2)) s.L) = some o) :
    checkPayload s = .next (s.finish o) := by
  simp only [checkPayload, h]

/-- A read that completes the payload ends the exchange with the verdict on all its bytes. -/
theorem payloadStep_of_verdict (h : s.chan.read (s.L + 2 - s.tn) .chunk = (.bytes v, c)) (hv : v ≠ [])
    (htn : s.tn + v.length = s.L + 2) {o : ExOutcome}
    (ho : payloadVerdict (s.L + 2) (tcValidate (memRead s.tb 0 s.tn ++ v) s.L) = some o) :
    payloadStep s = .next (((s.setChan c).pushTrack v).finish o) := by
  rw [payloadStep_of_full h hv htn]
  apply checkPayload_of_verdict
  have htb := memRead_pushTrack c htn.le
  rw [htn] at htb
  rw [State.pushTrack_L, State.setChan_L, htb, ho]

/-- Settles O38: the three answers that do not complete the payload. -/
theorem payloadReadAttempt : Obligations.PayloadReadAttempt := by
  unfold Obligations.PayloadReadAttempt
  intro s c hp
  rw [step_payload hp]
  refine ⟨payloadStep_of_ioError, payloadStep_of_nil, fun v h hv hlt => ?_⟩
  exact ⟨_, payloadStep_of_partial h hv hlt.ne, memRead_pushTrack c hlt.le,
    fun j hj hge => memWrite_getElem_out s.tb hj (.inr hge)⟩

/-- Settles O39: the bytes are a payload with its checksum appended, or are refused. -/
theorem completePayloadIsValidated : Obligations.CompletePayloadIsValidated := by
  unfold Obligations.CompletePayloadIsValidated
  intro s v c hp h hv htn
  have hlen : (memRead s.tb 0 s.tn ++ v).length = s.L + 2 := by
    have hfits := L_add_two_le s
    simp
    omega
  rw [step_payload hp]
  refine ⟨memWrite s.tb s.tn v, ?_, fun j hj hge => ?_, fun p hok => ?_, fun hbad => ?_⟩
  · rw [← htn]
    exact memRead_pushTrack c htn.le
  · exact memWrite_getElem_out s.tb hj (.inr (htn ▸ hge))
  · have hp : p.length = s.L := by simpa [hok] using hlen
    rw [payloadStep_of_verdict h hv htn (o := .readOk (s.L + 2) p), pushTrack_of_full c htn]
    · rfl
    · rw [hok, ← hp, tcValidate_tcAppend, payloadVerdict]
  · rw [payloadStep_of_verdict h hv htn (o := .readChecksumInvalid (s.L + 2)), pushTrack_of_full c htn]
    · rfl
    · obtain ⟨p, hok, -⟩ | ⟨-, hinvalid⟩ := tcValidate_cases _ s.L hlen
      · exact absurd hok (hbad p)
      · rw [hinvalid, payloadVerdict]

/-! ## The payload write and the return (R113, R116) -/

/-- Settles O40: what is offered is what then stands in `TB`, and both answers. -/
theorem payloadIsSentWithChecksum : Obligations.PayloadIsSentWithChecksum := by
  unfold Obligations.PayloadIsSentWithChecksum
  intro s hp
  rw [step_ready hp, ← memRead_appendChecksum]
  refine ⟨s.appendChecksum.tb, rfl, fun j hj hout => memWrite_getElem_out s.tb hj hout, fun hw => ?_, fun hw => ?_⟩
  · rcases sendPayload_cases s with ⟨-, heq⟩ | ⟨hne, -⟩
    · rw [heq]
      rfl
    · exact absurd hw hne
  · rcases sendPayload_cases s with ⟨heq, -⟩ | ⟨-, heq⟩
    · exact absurd heq hw
    · rw [heq]
      rfl

/-- Settles O41: the step in `DONE` is the return. -/
theorem doneReturnsOutcome : Obligations.DoneReturnsOutcome := by
  unfold Obligations.DoneReturnsOutcome
  intro s hp
  exact step_done hp

end Sys2Proof.Machine
end

section
/-!
PROOFS of the statements on the course of an exchange (42_session.md R106, R108, R112, R121, R123, R124): which phase
follows which, that a next step is always there, and that READ ends.
-/
namespace Sys2Proof.Machine

variable {s t : State}

/-! ## The transitions of phase (R124) -/

theorem HostEffect.phase_cases {i : Instr} (hp : s.phase = .idle) (he : HostEffect s i t) :
    t.phase = .idle ∨ t.phase = .sendCmd ∨ t.phase = .done := by
  cases he with
  | result => exact .inl hp
  | select => exact .inl hp
  | head => exact .inl hp
  | noDrive => exact .inr (.inr rfl)
  | stat => exact .inr (.inl rfl)
  | read => exact .inr (.inl rfl)
  | writ => exact .inr (.inl rfl)

theorem step_idle_phase (hp : s.phase = .idle) (h : step s = .next t) :
    t.phase = .idle ∨ t.phase = .sendCmd ∨ t.phase = .done := by
  rcases step_idle_next hp h with ⟨-, rfl⟩ | ⟨_, _, _, -, -, he⟩
  · exact .inl hp
  · exact he.phase_cases (s := s.dropPending) hp

theorem transmitCommand_phase (frame : List Byte) (s : State) :
    (transmitCommand frame s).phase = firstWait s.kind ∨ (transmitCommand frame s).phase = .done := by
  rcases transmitCommand_cases frame s with ⟨-, heq⟩ | ⟨-, heq⟩
  · exact .inl (heq ▸ rfl)
  · exact .inr (heq ▸ rfl)

theorem sendPayload_phase (s : State) : (sendPayload s).phase = .awaitWsta ∨ (sendPayload s).phase = .done := by
  rcases sendPayload_cases s with ⟨-, heq⟩ | ⟨-, heq⟩
  · exact .inl (heq ▸ rfl)
  · exact .inr (heq ▸ rfl)

/-- A frame wait goes on, ends, or, for an acknowledgement that is OK, lets the payload be sent. -/
theorem step_frameWait_phase (hw : s.phase = .awaitFrame ∨ s.phase = .awaitWsta) (h : step s = .next t) :
    t.phase = s.phase ∨ t.phase = .done ∨
    s.phase = .awaitFrame ∧ s.kind = .writ ∧ t.phase = .readyToSend ∧
      ∃ rdata, fcDecode t.fb.toList = .ok tagWrit 0x0000 rdata := by
  obtain ⟨a, c, -, ⟨-, rfl⟩ | ⟨-, rfl⟩ | ⟨v, -, -, -, hcase⟩⟩ := step_frameWait_next hw h
  · exact .inr (.inl rfl)
  · exact .inr (.inl rfl)
  rcases hcase with ⟨-, rfl⟩ | ⟨-, -, rfl⟩ | ⟨-, tag, rc, rd, hd, hjudged⟩
  · exact .inl rfl
  · exact .inl rfl
  rcases hjudged with ⟨-, -, rfl⟩ | ⟨hp, hk, rfl, rfl, rfl⟩ | ⟨-, -, o, -, rfl⟩ | ⟨-, rfl⟩
  · exact .inr (.inl rfl)
  · exact .inr (.inr ⟨hp, hk, rfl, rd, hd⟩)
  · exact .inr (.inl rfl)
  · exact .inr (.inl rfl)

theorem step_payload_phase (hp : s.phase = .awaitPayload) (h : step s = .next t) :
    t.phase = .awaitPayload ∨ t.phase = .done := by
  obtain ⟨a, c, -, ⟨-, rfl⟩ | ⟨-, rfl⟩ | ⟨v, -, -, -, ⟨-, rfl⟩ | ⟨-, ⟨p, -, rfl⟩ | rfl⟩⟩⟩ := step_payload_next hp h
  · exact .inr rfl
  · exact .inr rfl
  · exact .inl hp
  · exact .inr rfl
  · exact .inr rfl

/-- Settles O45: phase by phase. -/
theorem phaseTransitions : Obligations.PhaseTransitions := by
  unfold Obligations.PhaseTransitions
  intro s t h
  cases hp : s.phase with
  | idle => exact step_idle_phase hp h
  | sendCmd =>
    obtain rfl : transmitCommand s.cmd.toList s = t := Host.Outcome.next.inj ((step_sendCmd hp).symm.trans h)
    exact transmitCommand_phase _ s
  | awaitFrame =>
    rcases step_frameWait_phase (.inl hp) h with heq | hdone | ⟨-, hk, hready, -⟩
    · exact .inl (heq.trans hp)
    · exact .inr (.inr hdone)
    · exact .inr (.inl ⟨hk, hready⟩)
  | awaitPayload => exact step_payload_phase hp h
  | readyToSend =>
    obtain rfl : sendPayload s = t := Host.Outcome.next.inj ((step_ready hp).symm.trans h)
    exact sendPayload_phase s
  | awaitWsta =>
    rcases step_frameWait_phase (.inr hp) h with heq | hdone | ⟨hframe, -⟩
    · exact .inl (heq.trans hp)
    · exact .inr hdone
    · rw [hp] at hframe
      cases hframe
  | done =>
    obtain rfl : s.returnOutcome = t := Host.Outcome.next.inj ((step_done hp).symm.trans h)
    rfl

/-- Only `AWAIT_FRAME` leads to `READY_TO_SEND`. -/
theorem awaitFrame_of_readyToSend (h : step s = .next t) (ht : t.phase = .readyToSend) : s.phase = .awaitFrame := by
  have htrans := phaseTransitions s t h
  rw [ht] at htrans
  cases hp : s.phase with
  | awaitFrame => rfl
  | sendCmd => cases hk : s.kind <;> simp [hp, hk, firstWait] at htrans
  | idle => simp [hp] at htrans
  | awaitPayload => simp [hp] at htrans
  | readyToSend => simp [hp] at htrans
  | awaitWsta => simp [hp] at htrans
  | done => simp [hp] at htrans

/-- Settles O47: the step is one in `AWAIT_FRAME`, and of these only the OK acknowledgement leads on. -/
theorem payloadOnlyAfterOkAck : Obligations.PayloadOnlyAfterOkAck := by
  unfold Obligations.PayloadOnlyAfterOkAck
  intro s t h ht
  have hp := awaitFrame_of_readyToSend h ht
  rcases step_frameWait_phase (.inl hp) h with heq | hdone | ⟨-, hk, -, hframe⟩
  · rw [ht, hp] at heq
    cases heq
  · rw [ht] at hdone
    cases hdone
  · exact ⟨hp, hk, hframe⟩

/-! ## There is always a next step (R106, R112) -/

theorem isSafe_of_no_fault {r : StepResult} (h : ∀ f, r ≠ .fault f) : r.isSafe = true := by
  cases r with
  | next => rfl
  | fault f => exact absurd rfl (h f)
  | refused => rfl

theorem step_idle_isSafe (hp : s.phase = .idle) : StepResult.isSafe (step s) = true := by
  rw [step_idle hp]
  split
  · rfl
  · split
    · rename_i hd
      exact isSafe_of_no_fault fun _ => exec_host_no_fault (decode_host_port hd)
    · rfl

/-- In a frame wait of a kind that has one, every valid frame is judged. -/
theorem arbitrate_exists (hw : s.phase = .awaitFrame ∧ s.kind ≠ .read ∨ s.phase = .awaitWsta) (tag : Tag)
    (rcode rdata : Word) : ∃ t, arbitrate tag rcode rdata s = .next t := by
  rcases hw with ⟨hp, hk⟩ | hp
  · cases hkind : s.kind with
    | stat => exact ⟨_, arbitrate_stat _ _ _ hp hkind⟩
    | writ => exact ⟨_, arbitrate_ack _ _ _ hp hkind⟩
    | read => exact absurd hkind hk
  · exact ⟨_, arbitrate_final _ _ _ hp⟩

theorem step_frameWait_exists (hw : s.phase = .awaitFrame ∧ s.kind ≠ .read ∨ s.phase = .awaitWsta) :
    ∃ t, step s = .next t := by
  rw [step_frameWait (hw.imp_left And.left)]
  rcases frameAttempt_cases s with ⟨-, heq⟩ | ⟨-, heq⟩ | ⟨v, -, -, -, heq⟩
  · exact heq ▸ ⟨_, rfl⟩
  · exact heq ▸ ⟨_, rfl⟩
  · rw [heq]
    by_cases hfull : s.fn + v.length = Config.frameLen
    · rw [if_pos hfull]
      simp only
      split
      · exact ⟨_, rfl⟩
      · exact arbitrate_exists (s := (s.setChan (s.chan.read (10 - s.fn) .frame).2).pushFrame v) hw _ _ _
    · rw [if_neg hfull]
      exact ⟨_, rfl⟩

/-- A complete payload always has a verdict: `LengthMismatch` cannot come (R112). -/
theorem payloadVerdict_exists {x : List Byte} {e : Nat} (hlen : x.length = e + 2) :
    ∃ o, payloadVerdict (e + 2) (tcValidate x e) = some o := by
  rcases tcValidate_cases x e hlen with ⟨p, -, -, hok⟩ | ⟨-, hbad⟩
  · exact ⟨.readOk (e + 2) p, by rw [hok, payloadVerdict]⟩
  · exact ⟨.readChecksumInvalid (e + 2), by rw [hbad, payloadVerdict]⟩

theorem checkPayload_exists (s : State) : ∃ o, checkPayload s = .next (s.finish o) := by
  have hlen : (memRead s.tb 0 (s.L + 2)).length = s.L + 2 := by
    rw [memRead_length]
    exact Nat.min_eq_left (L_add_two_le s)
  obtain ⟨o, ho⟩ := payloadVerdict_exists hlen
  exact ⟨o, checkPayload_of_verdict ho⟩

theorem step_payload_exists (hp : s.phase = .awaitPayload) : ∃ t, step s = .next t := by
  rw [step_payload hp]
  rcases payloadStep_cases s with ⟨-, heq⟩ | ⟨-, heq⟩ | ⟨v, -, -, -, heq⟩
  · exact ⟨_, heq⟩
  · exact ⟨_, heq⟩
  · rw [heq]
    split
    · obtain ⟨o, ho⟩ := checkPayload_exists ((s.setChan (s.chan.read (s.L + 2 - s.tn) .chunk).2).pushTrack v)
      exact ⟨_, ho⟩
    · exact ⟨_, rfl⟩

/-- In every phase but `IDLE`, whose promise is kept, the step answers a next state. -/
theorem step_exists (hidle : s.phase ≠ .idle) (hok : s.phaseOk = true) : ∃ t, step s = .next t := by
  cases hp : s.phase with
  | idle => exact absurd hp hidle
  | sendCmd => exact ⟨_, step_sendCmd hp⟩
  | awaitFrame => exact step_frameWait_exists (.inl ⟨hp, ((phaseOk_awaitFrame hp).mp hok).2⟩)
  | awaitPayload => exact step_payload_exists hp
  | readyToSend => exact ⟨_, step_ready hp⟩
  | awaitWsta => exact step_frameWait_exists (.inr hp)
  | done => exact ⟨_, step_done hp⟩

/-- Settles O51: in `IDLE` no host operation faults, and elsewhere the step answers a next state. -/
theorem exchangeAlwaysHasANextStep : Obligations.ExchangeAlwaysHasANextStep := by
  unfold Obligations.ExchangeAlwaysHasANextStep
  rintro s ⟨-, -, -, hok⟩
  refine ⟨?_, fun hidle => step_exists hidle hok⟩
  by_cases hidle : s.phase = .idle
  · exact step_idle_isSafe hidle
  · obtain ⟨t, ht⟩ := step_exists hidle hok
    rw [ht]
    rfl

/-! ## READ ends (R123) -/

/-- A run of `k` steps, each one transaction, ends the exchange. -/
def EndsIn (k : Nat) (s : State) : Prop :=
  ∃ t, Host.Core.run core k s = .next t ∧ t.phase = .done ∧ t.chan.log.length = s.chan.log.length + k

theorem endsIn_zero (hp : s.phase = .done) : EndsIn 0 s := ⟨s, rfl, hp, rfl⟩

/-- One step and one transaction more. -/
theorem endsIn_succ {k : Nat} (h : step s = .next t) (hlog : t.chan.log.length = s.chan.log.length + 1)
    (ht : EndsIn k t) : EndsIn (k + 1) s := by
  obtain ⟨u, hrun, hdone, hu⟩ := ht
  exact ⟨u, (run_succ_of_step k h).trans hrun, hdone, by omega⟩

theorem step_payload_log (hp : s.phase = .awaitPayload) (h : step s = .next t) :
    t.chan.log.length = s.chan.log.length + 1 := by
  rw [step_payload_chan hp h, Channel.read_log, List.length_append]
  rfl

/-- A step of the payload wait ends READ, or at least one missing byte has come. -/
theorem step_payload_progress (hp : s.phase = .awaitPayload) (h : step s = .next t) :
    t.phase = .done ∨ t.phase = .awaitPayload ∧ t.L = s.L ∧ s.tn < t.tn ∧ t.tn < s.L + 2 := by
  obtain ⟨a, c, -, ⟨-, rfl⟩ | ⟨-, rfl⟩ | ⟨v, -, hv, -, ⟨hlt, rfl⟩ | ⟨-, ⟨p, -, rfl⟩ | rfl⟩⟩⟩ := step_payload_next hp h
  · exact .inl rfl
  · exact .inl rfl
  · have hpos : 0 < v.length := List.length_pos_of_ne_nil hv
    exact .inr ⟨hp, rfl, by simp only [State.pushTrack_tn, State.setChan_tn]; omega, hlt⟩
  · exact .inl rfl
  · exact .inl rfl

/-- The payload wait ends within as many steps as bytes are missing, by induction on these. -/
theorem payloadWait_endsIn (n : Nat) {s : State} (hp : s.phase = .awaitPayload) (hlt : s.tn < s.L + 2)
    (hn : s.L + 2 - s.tn ≤ n) : ∃ k ≤ n, EndsIn k s := by
  induction n generalizing s with
  | zero => omega
  | succ n ih =>
    obtain ⟨t, ht⟩ := step_payload_exists hp
    have hlog := step_payload_log hp ht
    rcases step_payload_progress hp ht with hdone | ⟨hpt, hL, hgt, hlt'⟩
    · exact ⟨1, by omega, endsIn_succ ht hlog (endsIn_zero hdone)⟩
    · obtain ⟨k, hk, hends⟩ := ih hpt (by omega) (by omega)
      exact ⟨k + 1, by omega, endsIn_succ ht hlog hends⟩

theorem step_sendCmd_log (hp : s.phase = .sendCmd) (h : step s = .next t) :
    t.chan.log.length = s.chan.log.length + 1 := by
  obtain rfl : transmitCommand s.cmd.toList s = t := Host.Outcome.next.inj ((step_sendCmd hp).symm.trans h)
  rw [transmitCommand_chan, Channel.write_log, List.length_append]
  rfl

/-- Settles O52: the command write, then the payload wait from its first byte. -/
theorem readAlwaysEnds : Obligations.ReadAlwaysEnds := by
  unfold Obligations.ReadAlwaysEnds
  intro s hp hk
  have hstep := step_sendCmd hp
  have hlog := step_sendCmd_log hp hstep
  rcases transmitCommand_cases s.cmd.toList s with ⟨-, heq⟩ | ⟨-, heq⟩
  · rw [heq, hk] at hstep hlog
    obtain ⟨k, hle, hends⟩ := payloadWait_endsIn (s.L + 2)
      (s := ((s.setChan (s.chan.write s.cmd.toList).2).clearCounts).setPhase .awaitPayload) rfl (Nat.succ_pos _) le_rfl
    exact ⟨k + 1, by omega, endsIn_succ hstep hlog hends⟩
  · rw [heq] at hstep hlog
    exact ⟨1, by omega, endsIn_succ hstep hlog (endsIn_zero rfl)⟩

end Sys2Proof.Machine
end

section
/-!
PROOFS of the statements that the big-step form agrees with the small steps (42_session.md R125): one read attempt of a
loop is one step of its wait, so a wait and a loop end alike, by induction on the steps and on the bound; then each
exchange from its accept step to its outcome.
-/
namespace Sys2Proof.Machine

variable {s t : State} {o : ExOutcome} {c : Channel}

/-! ## Runs that end -/

/-- Some run from `s` arrives in `DONE` with this outcome and this Channel. -/
def EndsWith (s : State) (o : ExOutcome) (c : Channel) : Prop :=
  ∃ k u, Host.Core.run core k s = .next u ∧ u.phase = .done ∧ u.out = o ∧ u.chan = c

/-- With nothing pending the engine stays in `IDLE` (assumption 7). -/
theorem run_idle (hp : s.phase = .idle) (hq : s.pending = []) (k : Nat) : Host.Core.run core k s = .next s := by
  have hstep : step s = .next s := by simp only [step_idle hp, hq]
  induction k with
  | zero => rfl
  | succ k ih => rw [run_succ_of_step k hstep, ih]

/-- A run that has arrived in `DONE` never arrives there again, so it has this outcome and no other. -/
theorem endsWith_done (hp : s.phase = .done) (hq : s.pending = []) : EndsWith s o c ↔ s.out = o ∧ s.chan = c := by
  refine ⟨?_, fun ⟨ho, hc⟩ => ⟨0, s, rfl, hp, ho, hc⟩⟩
  rintro ⟨k, u, hrun, hdone, ho, hc⟩
  cases k with
  | zero =>
    obtain rfl : s = u := Host.Outcome.next.inj hrun
    exact ⟨ho, hc⟩
  | succ k =>
    have hidle := (run_succ_of_step k (step_done hp)).trans (run_idle (s := s.returnOutcome) rfl hq k)
    obtain rfl : s.returnOutcome = u := Host.Outcome.next.inj (hidle.symm.trans hrun)
    cases hdone

theorem endsWith_finish {o' : ExOutcome} (hq : s.pending = []) : EndsWith (s.finish o') o c ↔ o' = o ∧ s.chan = c :=
  endsWith_done rfl hq

/-- Before `DONE` a run ends as it does from its next state. -/
theorem endsWith_step {p : Phase} (hp : s.phase = p) (h : step s = .next t) (hne : p ≠ .done := by decide) :
    EndsWith s o c ↔ EndsWith t o c := by
  constructor
  · rintro ⟨k, u, hrun, hdone, hu⟩
    cases k with
    | zero =>
      obtain rfl : s = u := Host.Outcome.next.inj hrun
      exact absurd (hp.symm.trans hdone) hne
    | succ k => exact ⟨k, u, (run_succ_of_step k h).symm.trans hrun, hdone, hu⟩
  · rintro ⟨k, u, hrun, hu⟩
    exact ⟨k + 1, u, (run_succ_of_step k h).trans hrun, hu⟩

/-- The operation, then a run from the state it answers. -/
theorem exists_run_iff_endsWith {i : Instr} (h : exec i s = .next t) :
    (∃ t k u, exec i s = .next t ∧ Host.Core.run core k t = .next u ∧ u.phase = .done ∧ u.out = o ∧ u.chan = c) ↔
      EndsWith t o c := by
  constructor
  · rintro ⟨t', k, u, ht', hu⟩
    obtain rfl : t = t' := Host.Outcome.next.inj (h.symm.trans ht')
    exact ⟨k, u, hu⟩
  · rintro ⟨k, u, hu⟩
    exact ⟨t, k, u, h, hu⟩

/-- The answer `some (o', d)` is the outcome and the Channel of a run that has ended with them. -/
theorem some_pair_eq_iff {o' : ExOutcome} {d : Channel} : some (o', d) = some (o, c) ↔ o' = o ∧ d = c := by
  rw [Option.some.injEq, Prod.mk.injEq]

/-! ## One attempt of `waitFrame` -/

section WaitFrame

variable {fuel : Nat} {got v : List Byte} {d : Channel}

theorem waitFrame_ioError (fuel : Nat) (h : c.read (10 - got.length) .frame = (.ioError, d)) :
    waitFrame (fuel + 1) got c = some (.ioError, d) := by
  simp only [waitFrame, h]

theorem waitFrame_timeout (fuel : Nat) (h : c.read (10 - got.length) .frame = (.bytes [], d)) :
    waitFrame (fuel + 1) got c = some (.timeout, d) := by
  simp only [waitFrame, h, List.isEmpty_nil, if_true]

theorem waitFrame_partial (fuel : Nat) (h : c.read (10 - got.length) .frame = (.bytes v, d)) (hv : v ≠ [])
    (hlen : (got ++ v).length ≠ 10) : waitFrame (fuel + 1) got c = waitFrame fuel (got ++ v) d := by
  simp only [waitFrame, h, List.isEmpty_iff, hv, if_false, hlen]

theorem waitFrame_invalid (fuel : Nat) (h : c.read (10 - got.length) .frame = (.bytes v, d)) (hv : v ≠ [])
    (hlen : (got ++ v).length = 10) (hd : fcDecode (got ++ v) = .checksumInvalid) :
    waitFrame (fuel + 1) got c = waitFrame fuel [] d := by
  simp only [waitFrame, h, List.isEmpty_iff, hv, if_false, hlen, if_true, hd]

theorem waitFrame_valid (fuel : Nat) (h : c.read (10 - got.length) .frame = (.bytes v, d)) (hv : v ≠ [])
    (hlen : (got ++ v).length = 10) {tag : Tag} {rcode rdata : Word} (hd : fcDecode (got ++ v) = .ok tag rcode rdata) :
    waitFrame (fuel + 1) got c = some (.frame tag rcode rdata, d) := by
  simp only [waitFrame, h, List.isEmpty_iff, hv, if_false, hlen, if_true, hd]

/-- One attempt ends the wait, whatever the bound, or leads to the rest of the wait. -/
theorem waitFrame_attempt (got : List Byte) (c : Channel) :
    (∃ x, ∀ fuel, waitFrame (fuel + 1) got c = some x) ∨
    ∃ got' d, ∀ fuel, waitFrame (fuel + 1) got c = waitFrame fuel got' d := by
  obtain ⟨a, d, h⟩ : ∃ a d, c.read (10 - got.length) .frame = (a, d) := ⟨_, _, rfl⟩
  cases a with
  | ioError => exact .inl ⟨_, fun fuel => waitFrame_ioError fuel h⟩
  | bytes v =>
    by_cases hv : v = []
    · subst hv
      exact .inl ⟨_, fun fuel => waitFrame_timeout fuel h⟩
    by_cases hlen : (got ++ v).length = 10
    · cases hd : fcDecode (got ++ v) with
      | ok => exact .inl ⟨_, fun fuel => waitFrame_valid fuel h hv hlen hd⟩
      | checksumInvalid => exact .inr ⟨_, _, fun fuel => waitFrame_invalid fuel h hv hlen hd⟩
    · exact .inr ⟨_, _, fun fuel => waitFrame_partial fuel h hv hlen⟩

/-- A wait that has ended within a bound ends alike within a larger one. -/
theorem waitFrame_mono {fuel' : Nat} (hle : fuel ≤ fuel') {x : FrameWait × Channel}
    (h : waitFrame fuel got c = some x) : waitFrame fuel' got c = some x := by
  induction fuel generalizing fuel' got c with
  | zero => cases h
  | succ fuel ih =>
    obtain ⟨n, rfl⟩ : ∃ n, fuel' = n + 1 := ⟨fuel' - 1, by omega⟩
    rcases waitFrame_attempt got c with ⟨y, hy⟩ | ⟨got', d, hrest⟩
    · rw [hy] at h ⊢
      exact h
    · rw [hrest] at h ⊢
      exact ih (by omega) h

end WaitFrame

/-! ## A frame wait and `waitFrame` end alike -/

/-- The state with the Channel and the frame registers as a frame wait leaves them. -/
def State.withFrame (s : State) (c : Channel) (fb : Buffer 10) (fn : Nat) : State :=
  { s with chan := c, fb := fb, fn := fn }

/-- What the engine does where `waitFrame` ends (R105, R106). -/
def FrameWait.conclude (s : State) : FrameWait → StepResult
  | .ioError => .next (s.finish .ioError)
  | .timeout => .next (s.finish .timeout)
  | .frame tag rcode rdata => arbitrate tag rcode rdata s

/-- One step of a frame wait is one attempt of `waitFrame` on the bytes collected: both end alike, or both go on. -/
theorem step_frameWait_waitFrame (hw : s.phase = .awaitFrame ∨ s.phase = .awaitWsta) (hfn : s.fn < 10) :
    (∃ r d fb fn, (∀ fuel, waitFrame (fuel + 1) (memRead s.fb 0 s.fn) s.chan = some (r, d)) ∧
      step s = r.conclude (s.withFrame d fb fn)) ∨
    ∃ d fb fn, fn < 10 ∧ step s = .next (s.withFrame d fb fn) ∧
      ∀ fuel, waitFrame (fuel + 1) (memRead s.fb 0 s.fn) s.chan = waitFrame fuel (memRead fb 0 fn) d := by
  obtain ⟨a, d, h⟩ : ∃ a d, s.chan.read (10 - s.fn) .frame = (a, d) := ⟨_, _, rfl⟩
  have hgot : (memRead s.fb 0 s.fn).length = s.fn := by
    rw [memRead_length]
    omega
  have hwait : s.chan.read (10 - (memRead s.fb 0 s.fn).length) .frame = (a, d) := hgot.symm ▸ h
  cases a with
  | ioError => exact .inl ⟨_, d, s.fb, s.fn, fun fuel => waitFrame_ioError fuel hwait, step_frameWait_ioError hw h⟩
  | bytes v =>
    by_cases hv : v = []
    · subst hv
      exact .inl ⟨_, d, s.fb, s.fn, fun fuel => waitFrame_timeout fuel hwait, step_frameWait_timeout hw h⟩
    have hlen : (memRead s.fb 0 s.fn ++ v).length = s.fn + v.length := by rw [List.length_append, hgot]
    by_cases hfull : s.fn + v.length = 10
    · cases hd : fcDecode (memRead s.fb 0 s.fn ++ v) with
      | ok tag rcode rdata =>
        exact .inl ⟨_, d, memWrite s.fb s.fn v, s.fn + v.length,
          fun fuel => waitFrame_valid fuel hwait hv (hlen.trans hfull) hd, step_frameWait_valid hw h hv hfull hd⟩
      | checksumInvalid =>
        exact .inr ⟨d, memWrite s.fb s.fn v, 0, by omega, step_frameWait_invalid hw h hv hfull hd,
          fun fuel => waitFrame_invalid fuel hwait hv (hlen.trans hfull) hd⟩
    · have hle : v.length ≤ 10 - s.fn := Channel.read_le _ _ _ (congrArg Prod.fst h)
      refine .inr ⟨d, memWrite s.fb s.fn v, s.fn + v.length, by omega, step_frameWait_partial hw h hv hfull,
        fun fuel => ?_⟩
      rw [memRead_memWrite_prefix s.fb (by omega)]
      exact waitFrame_partial fuel hwait hv (hlen ▸ hfull)

/-- A run from a frame wait ends with an outcome exactly when `waitFrame` ends, and what follows from there ends with
it. `Q` says what follows: it is what a run ends with from the state that the end of the wait leads to. -/
theorem endsWith_frameWait {Q : FrameWait → Channel → Prop}
    (hw : s.phase = .awaitFrame ∧ s.kind ≠ .read ∨ s.phase = .awaitWsta) (hfn : s.fn < 10)
    (hQ : ∀ r d fb fn t, FrameWait.conclude (s.withFrame d fb fn) r = .next t → (EndsWith t o c ↔ Q r d)) :
    EndsWith s o c ↔ ∃ fuel r d, waitFrame fuel (memRead s.fb 0 s.fn) s.chan = some (r, d) ∧ Q r d := by
  constructor
  · rintro ⟨k, u, hrun, hdone, hu⟩
    induction k generalizing s with
    | zero =>
      obtain rfl : s = u := Host.Outcome.next.inj hrun
      rcases hw with ⟨hp, -⟩ | hp <;> cases hp.symm.trans hdone
    | succ k ih =>
      obtain ⟨t, ht⟩ := step_frameWait_exists hw
      have hrest := (run_succ_of_step k ht).symm.trans hrun
      rcases step_frameWait_waitFrame (hw.imp_left And.left) hfn with
        ⟨r, d, fb, fn, hwait, hstep⟩ | ⟨d, fb, fn, hlt, hstep, hwait⟩
      · exact ⟨1, r, d, hwait 0, (hQ r d fb fn t (hstep.symm.trans ht)).mp ⟨k, u, hrest, hdone, hu⟩⟩
      · obtain rfl : s.withFrame d fb fn = t := Host.Outcome.next.inj (hstep.symm.trans ht)
        obtain ⟨fuel, r, d', hend, hq⟩ := ih (s := s.withFrame d fb fn) hw hlt (fun r d fb fn => hQ r d fb fn) hrest
        exact ⟨fuel + 1, r, d', (hwait fuel).trans hend, hq⟩
  · rintro ⟨fuel, r, d', hend, hq⟩
    induction fuel generalizing s with
    | zero => cases hend
    | succ fuel ih =>
      obtain ⟨t, ht⟩ := step_frameWait_exists hw
      have hbusy : s.phase ≠ .done := by
        rcases hw with ⟨hp, -⟩ | hp <;> rw [hp] <;> nofun
      rw [endsWith_step rfl ht hbusy]
      rcases step_frameWait_waitFrame (hw.imp_left And.left) hfn with
        ⟨r', d, fb, fn, hwait, hstep⟩ | ⟨d, fb, fn, hlt, hstep, hwait⟩
      · obtain ⟨rfl, rfl⟩ : r' = r ∧ d = d' := by simpa using (hwait fuel).symm.trans hend
        exact (hQ r' d fb fn t (hstep.symm.trans ht)).mpr hq
      · obtain rfl : s.withFrame d fb fn = t := Host.Outcome.next.inj (hstep.symm.trans ht)
        exact ih (s := s.withFrame d fb fn) hw hlt (fun r d fb fn => hQ r d fb fn) ((hwait fuel).symm.trans hend)

/-! ## The last frame wait of an exchange -/

/-- The outcome of a wait whose valid frame is judged by `judge`. -/
def FrameWait.verdict (judge : Tag → Word → Word → ExOutcome) : FrameWait → ExOutcome
  | .ioError => .ioError
  | .timeout => .timeout
  | .frame tag rcode rdata => judge tag rcode rdata

/-- R107 as a judge of frames: `rcode` is not read. -/
def judgeStat (tag : Tag) (_rcode rdata : Word) : ExOutcome := statVerdict tag rdata

/-- R109 as a judge of frames: `rdata` is not read. -/
def judgeFinal (tag : Tag) (rcode _rdata : Word) : ExOutcome := finalVerdict tag rcode

/-- The last wait of an exchange in its big-step form. -/
def lastWait (judge : Tag → Word → Word → ExOutcome) (fuel : Nat) (c : Channel) : Option (ExOutcome × Channel) :=
  (waitFrame fuel [] c).map fun x => (x.1.verdict judge, x.2)

theorem lastWait_eq_some_iff {judge : Tag → Word → Word → ExOutcome} {fuel : Nat} {d : Channel} :
    lastWait judge fuel d = some (o, c) ↔
      ∃ r d', waitFrame fuel [] d = some (r, d') ∧ r.verdict judge = o ∧ d' = c := by
  simp [lastWait]

/-- A wait that the arbiter ends with `judge` ends as its big-step form does. -/
theorem endsWith_lastWait {judge : Tag → Word → Word → ExOutcome}
    (hw : s.phase = .awaitFrame ∧ s.kind ≠ .read ∨ s.phase = .awaitWsta) (hfn : s.fn = 0) (hq : s.pending = [])
    (hjudge : ∀ d fb fn tag rcode rdata, arbitrate tag rcode rdata (s.withFrame d fb fn) =
      .next ((s.withFrame d fb fn).finish (judge tag rcode rdata))) :
    EndsWith s o c ↔ ∃ fuel, lastWait judge fuel s.chan = some (o, c) := by
  have hend (r : FrameWait) (d : Channel) (fb : Buffer 10) (fn : Nat) (t : State)
      (ht : FrameWait.conclude (s.withFrame d fb fn) r = .next t) :
      EndsWith t o c ↔ r.verdict judge = o ∧ d = c := by
    have hfinish : FrameWait.conclude (s.withFrame d fb fn) r =
        .next ((s.withFrame d fb fn).finish (r.verdict judge)) := by
      cases r with
      | ioError => rfl
      | timeout => rfl
      | frame tag rcode rdata => exact hjudge d fb fn tag rcode rdata
    obtain rfl := Host.Outcome.next.inj (hfinish.symm.trans ht)
    exact endsWith_finish hq
  rw [endsWith_frameWait hw (by omega) hend, hfn, memRead_zero]
  simp only [lastWait_eq_some_iff]

/-! ## The command write -/

/-- The state in which an exchange of kind `k` waits first, once its command is taken (R104). -/
def State.inFirstWait (s : State) (k : Kind) (frame : List Byte) : State :=
  (((s.beginExchange k frame).setChan (s.chan.write frame).2).clearCounts).setPhase (firstWait k)

/-- An exchange whose command is taken whole goes on in its first wait. -/
theorem endsWith_beginExchange_written {k : Kind} {frame : List Byte} (hlen : frame.length = 10)
    (hw : (s.chan.write frame).1 = .written 10) :
    EndsWith (s.beginExchange k frame) o c ↔ EndsWith (s.inFirstWait k frame) o c := by
  have hcmd : (s.beginExchange k frame).cmd.toList = frame := memWrite_whole s.cmd hlen
  have hstep := step_sendCmd (s := s.beginExchange k frame) rfl
  rw [hcmd, transmitCommand_of_written (s := s.beginExchange k frame) hlen hw, ← firstWait_eq] at hstep
  exact endsWith_step (p := .sendCmd) rfl hstep

/-- An exchange whose command is not taken whole ends with `IoError`. -/
theorem endsWith_beginExchange_not_written {k : Kind} {frame : List Byte} (hlen : frame.length = 10)
    (hq : s.pending = []) (hw : (s.chan.write frame).1 ≠ .written 10) :
    EndsWith (s.beginExchange k frame) o c ↔ some (.ioError, (s.chan.write frame).2) = some (o, c) := by
  have hcmd : (s.beginExchange k frame).cmd.toList = frame := memWrite_whole s.cmd hlen
  have hstep := step_sendCmd (s := s.beginExchange k frame) rfl
  rw [hcmd, transmitCommand_of_not_written (s := s.beginExchange k frame) hlen hw] at hstep
  rw [endsWith_step (p := .sendCmd) rfl hstep, some_pair_eq_iff]
  exact endsWith_done rfl hq

/-! ## STAT -/

/-- The STAT request of the accept step (R101). -/
def statCommand (s : State) : List Byte := fcEncode tagStat (statParam1 s.sel s.head) 0

theorem statCommand_length (s : State) : (statCommand s).length = 10 := fcEncode_length _ _ _

theorem bigStat_of_written (fuel : Nat) (hw : (s.chan.write (statCommand s)).1 = .written 10) :
    bigStat fuel s = lastWait judgeStat fuel (s.chan.write (statCommand s)).2 := by
  unfold statCommand at hw ⊢
  simp only [bigStat, fcEncode_length, hw, ne_eq, not_true_eq_false, if_false, lastWait]
  cases waitFrame fuel [] (s.chan.write (fcEncode tagStat (statParam1 s.sel s.head) 0)).2 with
  | none => rfl
  | some x =>
    obtain ⟨r, d⟩ := x
    cases r <;> rfl

theorem bigStat_of_not_written (fuel : Nat) (hw : (s.chan.write (statCommand s)).1 ≠ .written 10) :
    bigStat fuel s = some (.ioError, (s.chan.write (statCommand s)).2) := by
  unfold statCommand at hw ⊢
  simp only [bigStat, fcEncode_length, ne_eq, hw, not_false_eq_true, if_true]

/-- Settles O55: the command write, then the one frame wait. -/
theorem bigStepStatAgrees : Obligations.BigStepStatAgrees := by
  unfold Obligations.BigStepStatAgrees
  intro s o c hp hq
  have haccept : exec .exStat s = .next (s.beginExchange .stat (statCommand s)) := whenIdle_idle hp
  rw [exists_run_iff_endsWith haccept]
  by_cases hw : (s.chan.write (statCommand s)).1 = .written 10
  · rw [endsWith_beginExchange_written (statCommand_length s) hw,
      endsWith_lastWait (s := s.inFirstWait .stat (statCommand s)) (judge := judgeStat)
        (.inl ⟨rfl, show Kind.stat ≠ .read by decide⟩) rfl hq fun _ _ _ _ _ _ => arbitrate_stat _ _ _ rfl rfl]
    simp only [bigStat_of_written _ hw]
    rfl
  · rw [endsWith_beginExchange_not_written (statCommand_length s) hq hw]
    simp only [bigStat_of_not_written _ hw, exists_const]

/-! ## READ -/

/-- A READ or WRIT request as the accept step builds it (R70, R102, R103). -/
def trackCommand (tag : Tag) (track : BitVec 12) (d : Fin 4) (g : Geometry) : List Byte :=
  fcEncode tag (packTrack track (driveNibble d)) (lenWord g)

theorem trackCommand_length (tag : Tag) (track : BitVec 12) (d : Fin 4) (g : Geometry) :
    (trackCommand tag track d g).length = 10 := fcEncode_length _ _ _

section ReadPayload

variable {len : Nat} {got v : List Byte} {d : Channel}

theorem readPayload_ioError (fuel : Nat) (h : c.read (len + 2 - got.length) .chunk = (.ioError, d)) :
    readPayload len (fuel + 1) got c = some (.ioError, d) := by
  simp only [readPayload, h]

theorem readPayload_nil (fuel : Nat) (h : c.read (len + 2 - got.length) .chunk = (.bytes [], d)) :
    readPayload len (fuel + 1) got c = some (.partialData got.length, d) := by
  simp only [readPayload, h, List.isEmpty_nil, if_true]

theorem readPayload_partial (fuel : Nat) (h : c.read (len + 2 - got.length) .chunk = (.bytes v, d)) (hv : v ≠ [])
    (hlen : (got ++ v).length ≠ len + 2) :
    readPayload len (fuel + 1) got c = readPayload len fuel (got ++ v) d := by
  simp only [readPayload, h, List.isEmpty_iff, hv, if_false, hlen]

theorem readPayload_full (fuel : Nat) (h : c.read (len + 2 - got.length) .chunk = (.bytes v, d)) (hv : v ≠ [])
    (hlen : (got ++ v).length = len + 2) {o : ExOutcome}
    (ho : payloadVerdict (len + 2) (tcValidate (got ++ v) len) = some o) :
    readPayload len (fuel + 1) got c = some (o, d) := by
  simp only [readPayload, h, List.isEmpty_iff, hv, if_false, hlen, if_true, ho, Option.map_some]

end ReadPayload

/-- The payload wait and the payload loop end alike, when the loop may make an attempt for each byte missing (R123): by
induction on the attempts, one step each. -/
theorem endsWith_payload (fuel : Nat) {s : State} (hp : s.phase = .awaitPayload) (hq : s.pending = [])
    (hlt : s.tn < s.L + 2) (hfuel : s.L + 2 - s.tn ≤ fuel) :
    EndsWith s o c ↔ readPayload s.L fuel (memRead s.tb 0 s.tn) s.chan = some (o, c) := by
  induction fuel generalizing s with
  | zero => omega
  | succ fuel ih =>
    have hfits := L_add_two_le s
    have hgot : (memRead s.tb 0 s.tn).length = s.tn := by
      rw [memRead_length]
      omega
    obtain ⟨a, d, h⟩ : ∃ a d, s.chan.read (s.L + 2 - s.tn) .chunk = (a, d) := ⟨_, _, rfl⟩
    have hread : s.chan.read (s.L + 2 - (memRead s.tb 0 s.tn).length) .chunk = (a, d) := hgot.symm ▸ h
    have hstep := step_payload hp
    cases a with
    | ioError =>
      rw [endsWith_step hp (hstep.trans (payloadStep_of_ioError h)), readPayload_ioError fuel hread, some_pair_eq_iff]
      exact endsWith_finish hq
    | bytes v =>
      by_cases hv : v = []
      · subst hv
        rw [endsWith_step hp (hstep.trans (payloadStep_of_nil h)), readPayload_nil fuel hread, some_pair_eq_iff, hgot]
        exact endsWith_finish hq
      have hlen : (memRead s.tb 0 s.tn ++ v).length = s.tn + v.length := by rw [List.length_append, hgot]
      by_cases hfull : s.tn + v.length = s.L + 2
      · obtain ⟨o', ho'⟩ := payloadVerdict_exists (hlen.trans hfull)
        rw [endsWith_step hp (hstep.trans (payloadStep_of_verdict h hv hfull ho')),
          readPayload_full fuel hread hv (hlen.trans hfull) ho', some_pair_eq_iff]
        exact endsWith_finish hq
      · have hle : v.length ≤ s.L + 2 - s.tn := Channel.read_le _ _ _ (congrArg Prod.fst h)
        have hpos : 0 < v.length := List.length_pos_of_ne_nil hv
        rw [endsWith_step hp (hstep.trans (payloadStep_of_partial h hv hfull)),
          readPayload_partial fuel hread hv (hlen ▸ hfull), ← memRead_pushTrack d (by omega)]
        exact ih (s := (s.setChan d).pushTrack v) hp hq (show s.tn + v.length < s.L + 2 by omega)
          (show s.L + 2 - (s.tn + v.length) ≤ fuel by omega)

theorem bigRead_noDrive (track : BitVec 12) (g : Geometry) (hs : s.sel = none) :
    bigRead track g s = some (.invalidDrive, s.chan) := by
  simp only [bigRead, hs]

section BigRead

variable {track : BitVec 12} {g : Geometry} {d : Fin 4}

theorem bigRead_of_written (hs : s.sel = some d)
    (hw : (s.chan.write (trackCommand tagRead track d g)).1 = .written 10) :
    bigRead track g s =
      readPayload g.trackLen (g.trackLen + 2) [] (s.chan.write (trackCommand tagRead track d g)).2 := by
  unfold trackCommand at hw ⊢
  simp only [bigRead, hs, fcEncode_length, hw, ne_eq, not_true_eq_false, if_false]

theorem bigRead_of_not_written (hs : s.sel = some d)
    (hw : (s.chan.write (trackCommand tagRead track d g)).1 ≠ .written 10) :
    bigRead track g s = some (.ioError, (s.chan.write (trackCommand tagRead track d g)).2) := by
  unfold trackCommand at hw ⊢
  simp only [bigRead, hs, fcEncode_length, ne_eq, hw, not_false_eq_true, if_true]

theorem exec_exRead_command (hp : s.phase = .idle) (hs : s.sel = some d) :
    exec (.exRead track.toNat g) s =
      .next ((s.latchLen g).beginExchange .read (trackCommand tagRead track d g)) := by
  rw [exec_exRead_drive hp hs g track.isLt, BitVec.ofNat_toNat, BitVec.setWidth_eq, trackCommand]

end BigRead

/-- Settles O56: no drive, or the command write, then the payload wait from its first byte. -/
theorem bigStepReadAgrees : Obligations.BigStepReadAgrees := by
  unfold Obligations.BigStepReadAgrees
  intro s track g o c hp hq
  cases hs : s.sel with
  | none =>
    rw [exists_run_iff_endsWith (exec_exRead_noDrive hp hs g track.isLt), bigRead_noDrive track g hs, some_pair_eq_iff]
    exact (endsWith_finish hq).symm
  | some d =>
    rw [exists_run_iff_endsWith (exec_exRead_command hp hs)]
    by_cases hw : (s.chan.write (trackCommand tagRead track d g)).1 = .written 10
    · rw [endsWith_beginExchange_written (s := s.latchLen g) (trackCommand_length _ _ _ _) hw,
        endsWith_payload (s := (s.latchLen g).inFirstWait .read (trackCommand tagRead track d g)) (g.trackLen + 2)
          rfl hq (Nat.succ_pos _) le_rfl, bigRead_of_written hs hw]
      rfl
    · rw [endsWith_beginExchange_not_written (s := s.latchLen g) (trackCommand_length _ _ _ _) hq hw,
        bigRead_of_not_written hs hw]
      rfl

/-! ## WRIT -/

section BigWritFinish

variable {data : List Byte} {d : Channel}

theorem bigWritFinish_of_written (fuel : Nat) (hw : (d.write (tcAppend data)).1 = .written (tcAppend data).length) :
    bigWritFinish fuel data d = lastWait judgeFinal fuel (d.write (tcAppend data)).2 := by
  simp only [bigWritFinish, hw, ne_eq, not_true_eq_false, if_false, lastWait]
  cases waitFrame fuel [] (d.write (tcAppend data)).2 with
  | none => rfl
  | some x =>
    obtain ⟨r, d⟩ := x
    cases r <;> rfl

theorem bigWritFinish_of_not_written (fuel : Nat) (hw : (d.write (tcAppend data)).1 ≠ .written (tcAppend data).length) :
    bigWritFinish fuel data d = some (.ioError, (d.write (tcAppend data)).2) := by
  simp only [bigWritFinish, ne_eq, hw, not_false_eq_true, if_true]

theorem bigWritFinish_mono {fuel fuel' : Nat} (hle : fuel ≤ fuel') {x : ExOutcome × Channel}
    (h : bigWritFinish fuel data d = some x) : bigWritFinish fuel' data d = some x := by
  by_cases hw : (d.write (tcAppend data)).1 = .written (tcAppend data).length
  · rw [bigWritFinish_of_written _ hw] at h ⊢
    obtain ⟨o, c⟩ := x
    obtain ⟨r, d', hend, hr⟩ := lastWait_eq_some_iff.mp h
    exact lastWait_eq_some_iff.mpr ⟨r, d', waitFrame_mono hle hend, hr⟩
  · rw [bigWritFinish_of_not_written _ hw] at h ⊢
    exact h

end BigWritFinish

/-- From the payload write on, a run ends as the second half of the big-step WRIT does. -/
theorem endsWith_readyToSend (hp : s.phase = .readyToSend) (hq : s.pending = []) :
    EndsWith s o c ↔ ∃ fuel, bigWritFinish fuel (memRead s.tb 0 s.L) s.chan = some (o, c) := by
  have hlen : (tcAppend (memRead s.tb 0 s.L)).length = s.L + 2 := by
    have hfits := L_add_two_le s
    rw [tcAppend_length, memRead_length]
    omega
  rw [endsWith_step hp (step_ready hp)]
  rcases sendPayload_cases s with ⟨hw, heq⟩ | ⟨hw, heq⟩
  · rw [memRead_appendChecksum] at hw heq
    rw [heq]
    refine Iff.trans (endsWith_lastWait (judge := judgeFinal) (.inr rfl) rfl hq
      fun _ _ _ _ _ _ => arbitrate_final _ _ _ rfl) ?_
    simp only [bigWritFinish_of_written _ (hw.trans (congrArg _ hlen.symm))]
    rfl
  · rw [memRead_appendChecksum] at hw heq
    rw [← hlen] at hw
    simp only [heq, bigWritFinish_of_not_written _ hw, some_pair_eq_iff, exists_const]
    exact endsWith_finish hq

/-- What follows the acknowledgement wait in the big-step form (R108). -/
def afterAck (fuel : Nat) (data : List Byte) : FrameWait → Channel → Option (ExOutcome × Channel)
  | .ioError, c => some (.ioError, c)
  | .timeout, c => some (.timeout, c)
  | .frame tag rcode _, c =>
    match ackVerdict tag rcode with
    | some o => some (o, c)
    | none => bigWritFinish fuel data c

section AfterAck

variable {data : List Byte} {d : Channel} {tag : Tag} {rcode rdata : Word}

theorem afterAck_of_some (fuel : Nat) {o' : ExOutcome} (h : ackVerdict tag rcode = some o') :
    afterAck fuel data (.frame tag rcode rdata) d = some (o', d) := by
  simp only [afterAck, h]

theorem afterAck_of_none (fuel : Nat) (h : ackVerdict tag rcode = none) :
    afterAck fuel data (.frame tag rcode rdata) d = bigWritFinish fuel data d := by
  simp only [afterAck, h]

theorem afterAck_mono {fuel fuel' : Nat} (hle : fuel ≤ fuel') {r : FrameWait} {x : ExOutcome × Channel}
    (h : afterAck fuel data r d = some x) : afterAck fuel' data r d = some x := by
  cases r with
  | ioError => exact h
  | timeout => exact h
  | frame tag rcode rdata =>
    cases hv : ackVerdict tag rcode with
    | some o' =>
      rw [afterAck_of_some _ hv] at h ⊢
      exact h
    | none =>
      rw [afterAck_of_none _ hv] at h ⊢
      exact bigWritFinish_mono hle h

/-- One bound for both frame waits of a WRIT is as good as one for each. -/
theorem exists_bind_afterAck_iff :
    (∃ fuel, (waitFrame fuel [] d).bind (fun x => afterAck fuel data x.1 x.2) = some (o, c)) ↔
      ∃ fuel r d', waitFrame fuel [] d = some (r, d') ∧ ∃ fuel', afterAck fuel' data r d' = some (o, c) := by
  constructor
  · rintro ⟨fuel, h⟩
    obtain ⟨⟨r, d'⟩, hend, hafter⟩ := Option.bind_eq_some_iff.mp h
    exact ⟨fuel, r, d', hend, fuel, hafter⟩
  · rintro ⟨fuel, r, d', hend, fuel', hafter⟩
    exact ⟨max fuel fuel', Option.bind_eq_some_iff.mpr
      ⟨(r, d'), waitFrame_mono (le_max_left _ _) hend, afterAck_mono (le_max_right _ _) hafter⟩⟩

end AfterAck

/-- What a run ends with from the state that the acknowledgement wait leads to. -/
theorem endsWith_conclude_ack (hp : s.phase = .awaitFrame) (hk : s.kind = .writ) (hq : s.pending = []) {r : FrameWait}
    (h : r.conclude s = .next t) :
    EndsWith t o c ↔ ∃ fuel, afterAck fuel (memRead s.tb 0 s.L) r s.chan = some (o, c) := by
  cases r with
  | ioError =>
    obtain rfl : s.finish .ioError = t := Host.Outcome.next.inj h
    simp only [afterAck, some_pair_eq_iff, exists_const]
    exact endsWith_finish hq
  | timeout =>
    obtain rfl : s.finish .timeout = t := Host.Outcome.next.inj h
    simp only [afterAck, some_pair_eq_iff, exists_const]
    exact endsWith_finish hq
  | frame tag rcode rdata =>
    obtain rfl : acknowledge tag rcode s = t :=
      Host.Outcome.next.inj ((arbitrate_ack tag rcode rdata hp hk).symm.trans h)
    cases hv : ackVerdict tag rcode with
    | some o' =>
      simp only [acknowledge_of_some hv, afterAck_of_some _ hv, some_pair_eq_iff, exists_const]
      exact endsWith_finish hq
    | none =>
      simp only [acknowledge_of_none hv, afterAck_of_none _ hv]
      exact endsWith_readyToSend rfl hq

/-- From the acknowledgement wait on, a run ends as the rest of the big-step WRIT of the data in `TB` does. -/
theorem endsWith_ackWait (hp : s.phase = .awaitFrame) (hk : s.kind = .writ) (hfn : s.fn = 0) (hq : s.pending = [])
    {data : List Byte} (hdata : memRead s.tb 0 s.L = data) :
    EndsWith s o c ↔
      ∃ fuel, (waitFrame fuel [] s.chan).bind (fun x => afterAck fuel data x.1 x.2) = some (o, c) := by
  subst hdata
  have hnotRead : s.kind ≠ .read := by rw [hk]; nofun
  rw [exists_bind_afterAck_iff, endsWith_frameWait
    (Q := fun r d => ∃ fuel, afterAck fuel (memRead s.tb 0 s.L) r d = some (o, c)) (.inl ⟨hp, hnotRead⟩) (by omega)
    fun r d fb fn _ => endsWith_conclude_ack (s := s.withFrame d fb fn) hp hk hq, hfn, memRead_zero]

theorem bigWrit_noDrive (fuel : Nat) (track : BitVec 12) (g : Geometry) (data : List Byte) (hs : s.sel = none) :
    bigWrit fuel track g data s = some (.invalidDrive, s.chan) := by
  simp only [bigWrit, hs]

section BigWrit

variable {track : BitVec 12} {g : Geometry} {data : List Byte} {d : Fin 4}

theorem bigWrit_of_written (fuel : Nat) (data : List Byte) (hs : s.sel = some d)
    (hw : (s.chan.write (trackCommand tagWrit track d g)).1 = .written 10) :
    bigWrit fuel track g data s = (waitFrame fuel [] (s.chan.write (trackCommand tagWrit track d g)).2).bind
      fun x => afterAck fuel data x.1 x.2 := by
  unfold trackCommand at hw ⊢
  simp only [bigWrit, hs, fcEncode_length, hw, ne_eq, not_true_eq_false, if_false]
  cases waitFrame fuel [] (s.chan.write (fcEncode tagWrit (packTrack track (driveNibble d)) (lenWord g))).2 with
  | none => rfl
  | some x =>
    obtain ⟨r, d⟩ := x
    cases r <;> rfl

theorem bigWrit_of_not_written (fuel : Nat) (data : List Byte) (hs : s.sel = some d)
    (hw : (s.chan.write (trackCommand tagWrit track d g)).1 ≠ .written 10) :
    bigWrit fuel track g data s = some (.ioError, (s.chan.write (trackCommand tagWrit track d g)).2) := by
  unfold trackCommand at hw ⊢
  simp only [bigWrit, hs, fcEncode_length, ne_eq, hw, not_false_eq_true, if_true]

theorem exec_exWrit_command (hp : s.phase = .idle) (hs : s.sel = some d) (hlen : data.length = g.trackLen) :
    exec (.exWrit track.toNat g data) s =
      .next (((s.latchLen g).latchPayload data).beginExchange .writ (trackCommand tagWrit track d g)) := by
  rw [exec_exWrit_drive hp hs track.isLt hlen, BitVec.ofNat_toNat, BitVec.setWidth_eq, trackCommand]

end BigWrit

/-- Settles O57: no drive, or the command write, then the acknowledgement wait with the data in `TB`. -/
theorem bigStepWritAgrees : Obligations.BigStepWritAgrees := by
  unfold Obligations.BigStepWritAgrees
  intro s track g data o c hp hq hlen
  cases hs : s.sel with
  | none =>
    rw [exists_run_iff_endsWith (exec_exWrit_noDrive hp hs track.isLt hlen)]
    simp only [bigWrit_noDrive _ track g data hs, some_pair_eq_iff, exists_const]
    exact (endsWith_finish hq).symm
  | some d =>
    rw [exists_run_iff_endsWith (exec_exWrit_command hp hs hlen)]
    by_cases hw : (s.chan.write (trackCommand tagWrit track d g)).1 = .written 10
    · rw [endsWith_beginExchange_written (s := (s.latchLen g).latchPayload data) (trackCommand_length _ _ _ _) hw,
        endsWith_ackWait (s := ((s.latchLen g).latchPayload data).inFirstWait .writ (trackCommand tagWrit track d g))
          rfl rfl rfl hq (memRead_latchPayload s hlen)]
      simp only [bigWrit_of_written _ data hs hw]
      rfl
    · rw [endsWith_beginExchange_not_written (s := (s.latchLen g).latchPayload data)
        (trackCommand_length _ _ _ _) hq hw]
      simp only [bigWrit_of_not_written _ data hs hw, exists_const]
      rfl

end Sys2Proof.Machine
end

section
/-!
PROOFS of the statements on the Drive State (43_drive_state.md R117 to R120): what each of the three operations does in
`IDLE`, and that no other operation and no step of an exchange writes `SEL` or `HEAD`.
-/
namespace Sys2Proof.Machine

variable {s t : State}

/-! ## DS_SELECT (R117) -/

theorem driveArg_fin (d : Fin 4) : driveArg d.val = some d := dif_pos d.isLt

theorem exec_dsSelect_drive (hp : s.phase = .idle) (d : Fin 4) :
    exec (.dsSelect (some d.val)) s = .next ((s.setSel (some d)).respond .done) := by
  simp only [exec, execDsSelect, whenIdle_idle hp, selectArg, driveArg_fin, Option.map_some]

theorem exec_dsSelect_none (hp : s.phase = .idle) :
    exec (.dsSelect none) s = .next ((s.setSel none).respond .done) := whenIdle_idle hp

/-- With drive 2 selected and no head loaded, `EX_STAT` builds the STAT request of `param1 = 0x0002` (R69). -/
theorem exStat_cmd_of_drive_two (hp : s.phase = .idle) (hsel : s.sel = some 2)
    (hhead : s.head = Vector.replicate 4 false) :
    ∃ u, exec .exStat s = .next u ∧ u.cmd.toList = fcEncode tagStat 0x0002 0x0000 := by
  obtain ⟨cmd, hexec, hcmd⟩ := exStatAccepts s hp
  have hword : (selByte (some 2)).setWidth 16 ||| (headmap (Vector.replicate 4 false) <<< 8) = 0x0002 := by decide
  rw [hsel, hhead, hword] at hcmd
  exact ⟨_, hexec, hcmd⟩

/-- Settles O17: a drive, `NONE` and an index outside the type; the example runs `EX_STAT` on the state selected. -/
theorem dsSelectSetsSel : Obligations.DsSelectSetsSel := by
  unfold Obligations.DsSelectSetsSel
  intro s hp
  refine ⟨fun d => exec_dsSelect_drive hp d, exec_dsSelect_none hp, fun _ h => exec_dsSelect_refused hp h,
    fun hhead => ?_⟩
  obtain ⟨u, hexec, hcmd⟩ := exStat_cmd_of_drive_two (s := (s.setSel (some 2)).respond .done) hp rfl hhead
  exact ⟨_, u, exec_dsSelect_drive hp 2, hexec, hcmd⟩

/-! ## DS_HEAD (R118) -/

theorem exec_dsHead_drive (hp : s.phase = .idle) (d : Fin 4) (v : Bool) :
    exec (.dsHead d.val v) s = .next ((s.setHeadBit d v).respond .done) := by
  simp only [exec, execDsHead, whenIdle_idle hp, driveArg_fin]

theorem setHeadBit_head_same (s : State) (d : Fin 4) (v : Bool) : (s.setHeadBit d v).head[d] = v :=
  Vector.getElem_set_self d.isLt

theorem setHeadBit_head_other (s : State) {d e : Fin 4} (v : Bool) (h : e ≠ d) :
    (s.setHeadBit d v).head[e] = s.head[e] :=
  Vector.getElem_set_ne d.isLt e.isLt (Fin.val_ne_of_ne h.symm)

/-- Settles O18: the state with one bit set, read at that bit and at another. -/
theorem dsHeadSetsOneBit : Obligations.DsHeadSetsOneBit := by
  unfold Obligations.DsHeadSetsOneBit
  intro s hp
  refine ⟨fun d v => ⟨(s.setHeadBit d v).head, exec_dsHead_drive hp d v, setHeadBit_head_same s d v,
    fun _ h => setHeadBit_head_other s v h⟩, fun _ v h => exec_dsHead_refused hp v h, fun hhead => ?_⟩
  have hset : (s.setHeadBit 2 true).head = #v[false, false, true, false] := by
    rw [State.setHeadBit_head, hhead]
    rfl
  rw [← hset]
  exact exec_dsHead_drive hp 2 true

/-! ## DS_HEADMAP (R119) -/

/-- `DS_HEADMAP` returns the bitmap and changes nothing else. -/
theorem exec_dsHeadmap (hp : s.phase = .idle) {w : Word} (hw : headmap s.head = w) :
    exec .dsHeadmap s = .next (s.respond (.word w)) := by
  rw [← hw]
  exact whenIdle_idle hp

/-- Bits 15 to 4 are zero, so the bitmap is at most `0x000F`. -/
theorem headmap_toNat_le (head : Vector Bool 4) : (headmap head).toNat ≤ 0x000F :=
  Nat.le_of_lt_succ (Nat.lt_pow_two_of_testBit (n := 4) _ fun _ h => headmap_getLsbD_of_le head h)

/-- The high byte of a STAT request's `param1` is the low byte of the bitmap (R69). -/
theorem statParam1_high (sel : Option (Fin 4)) (head : Vector Bool 4) :
    (statParam1 sel head).extractLsb' 8 8 = (headmap head).extractLsb' 0 8 := by
  apply BitVec.eq_of_getLsbD_eq
  intro j hj
  rw [BitVec.getLsbD_extractLsb', BitVec.getLsbD_extractLsb', statParam1_getLsbD_high sel head hj, Nat.zero_add]

/-- Settles O19: the bits of the bitmap and its bound; the example evaluates the bitmap. -/
theorem dsHeadmapReportsHeads : Obligations.DsHeadmapReportsHeads := by
  unfold Obligations.DsHeadmapReportsHeads
  intro s hp
  refine ⟨⟨headmap s.head, exec_dsHeadmap hp rfl, headmap_getLsbD s.head, fun _ h => headmap_getLsbD_of_le s.head h,
    headmap_toNat_le s.head⟩, fun hhead => ?_⟩
  have hmap : headmap s.head = 0x0004 := by
    rw [hhead]
    decide
  refine ⟨exec_dsHeadmap hp hmap, ?_⟩
  rw [statParam1_high, hmap]
  rfl

/-! ## Nothing else writes the Drive State (R120, D10) -/

/-- `DS_HEAD` is the only host operation that changes `HEAD`. -/
theorem HostEffect.dsHead_of_head_ne {i : Instr} (he : HostEffect s i t) (hne : t.head ≠ s.head) :
    ∃ idx v, i = .dsHead idx v := by
  cases he with
  | head idx v d => exact ⟨idx, v, rfl⟩
  | result => exact absurd rfl hne
  | select => exact absurd rfl hne
  | noDrive => exact absurd rfl hne
  | stat => exact absurd rfl hne
  | read => exact absurd rfl hne
  | writ => exact absurd rfl hne

/-- `DS_SELECT` is the only host operation that changes `SEL`. -/
theorem HostEffect.dsSelect_of_sel_ne {i : Instr} (he : HostEffect s i t) (hne : t.sel ≠ s.sel) :
    ∃ idx, i = .dsSelect idx := by
  cases he with
  | select idx d => exact ⟨idx, rfl⟩
  | result => exact absurd rfl hne
  | head => exact absurd rfl hne
  | noDrive => exact absurd rfl hne
  | stat => exact absurd rfl hne
  | read => exact absurd rfl hne
  | writ => exact absurd rfl hne

/-- The Drive State of two states is the same. -/
def State.SameDrives (s t : State) : Prop := t.head = s.head ∧ t.sel = s.sel

theorem transmitCommand_sameDrives (frame : List Byte) (s : State) : s.SameDrives (transmitCommand frame s) := by
  rcases transmitCommand_cases frame s with ⟨-, heq⟩ | ⟨-, heq⟩ <;> rw [heq] <;> exact ⟨rfl, rfl⟩

theorem sendPayload_sameDrives (s : State) : s.SameDrives (sendPayload s) := by
  rcases sendPayload_cases s with ⟨-, heq⟩ | ⟨-, heq⟩ <;> rw [heq] <;> exact ⟨rfl, rfl⟩

theorem step_frameWait_sameDrives (hw : s.phase = .awaitFrame ∨ s.phase = .awaitWsta) (h : step s = .next t) :
    s.SameDrives t := by
  obtain ⟨a, c, -, ⟨-, rfl⟩ | ⟨-, rfl⟩ | ⟨v, -, -, -, hcase⟩⟩ := step_frameWait_next hw h
  · exact ⟨rfl, rfl⟩
  · exact ⟨rfl, rfl⟩
  rcases hcase with ⟨-, rfl⟩ | ⟨-, -, rfl⟩ | ⟨-, tag, rc, rd, -, hjudged⟩
  · exact ⟨rfl, rfl⟩
  · exact ⟨rfl, rfl⟩
  · rcases hjudged with ⟨-, -, rfl⟩ | ⟨-, -, -, -, rfl⟩ | ⟨-, -, o, -, rfl⟩ | ⟨-, rfl⟩ <;> exact ⟨rfl, rfl⟩

theorem step_payload_sameDrives (hp : s.phase = .awaitPayload) (h : step s = .next t) : s.SameDrives t := by
  obtain ⟨a, c, -, ⟨-, rfl⟩ | ⟨-, rfl⟩ | ⟨v, -, -, -, ⟨-, rfl⟩ | ⟨-, ⟨p, -, rfl⟩ | rfl⟩⟩⟩ := step_payload_next hp h <;>
    exact ⟨rfl, rfl⟩

/-- No step of an exchange changes the Drive State, whatever the outcome. -/
theorem step_exchange_sameDrives (hidle : s.phase ≠ .idle) (h : step s = .next t) : s.SameDrives t := by
  cases hp : s.phase with
  | idle => exact absurd hp hidle
  | sendCmd =>
    obtain rfl : transmitCommand s.cmd.toList s = t := Host.Outcome.next.inj ((step_sendCmd hp).symm.trans h)
    exact transmitCommand_sameDrives _ s
  | awaitFrame => exact step_frameWait_sameDrives (.inl hp) h
  | awaitPayload => exact step_payload_sameDrives hp h
  | readyToSend =>
    obtain rfl : sendPayload s = t := Host.Outcome.next.inj ((step_ready hp).symm.trans h)
    exact sendPayload_sameDrives s
  | awaitWsta => exact step_frameWait_sameDrives (.inr hp) h
  | done =>
    obtain rfl : s.returnOutcome = t := Host.Outcome.next.inj ((step_done hp).symm.trans h)
    exact ⟨rfl, rfl⟩

/-- Settles O20: a step of an exchange changes neither, and a step in `IDLE` by the effect of the operation it runs. -/
theorem onlyDriveOpsWriteDriveState : Obligations.OnlyDriveOpsWriteDriveState := by
  unfold Obligations.OnlyDriveOpsWriteDriveState
  intro s t h
  by_cases hp : s.phase = .idle
  · rcases step_idle_next hp h with ⟨-, rfl⟩ | ⟨msg, rest, i, hq, hd, he⟩
    · exact ⟨fun hne => absurd rfl hne, fun hne => absurd rfl hne⟩
    · refine ⟨fun hne => ?_, fun hne => ?_⟩
      · obtain ⟨idx, v, rfl⟩ := he.dsHead_of_head_ne hne
        exact ⟨hp, msg, rest, idx, v, hq, hd⟩
      · obtain ⟨idx, rfl⟩ := he.dsSelect_of_sel_ne hne
        exact ⟨hp, msg, rest, idx, hq, hd⟩
  · obtain ⟨hhead, hsel⟩ := step_exchange_sameDrives hp h
    exact ⟨fun hne => absurd hhead hne, fun hne => absurd hsel hne⟩

end Sys2Proof.Machine
end

section
/-!
PROOFS of the statements on exceptions (60_exceptions.md R126, R132): `OUT` is written only where an exchange ends, and
what the end leaves alone; then the numbers and classes of the outcomes.
-/
namespace Sys2Proof.Machine

variable {s t u : State}

/-! ## Ending an exchange (R132) -/

/-- The two states agree on what no end of an exchange writes: the Drive State, `KIND`, `CMD`, `L` and what the Host has
been given. -/
def State.SameBesideEnd (s t : State) : Prop :=
  t.head = s.head ∧ t.sel = s.sel ∧ t.kind = s.kind ∧ t.cmd = s.cmd ∧ t.len = s.len ∧ t.ret = s.ret

/-- From `s` to `t`, `OUT` is kept or an exchange ends. -/
def State.KeepsOutOrEnds (s t : State) : Prop := t.out = s.out ∨ t.phase = .done ∧ s.SameBesideEnd t

theorem sameBesideEnd_setChan (s : State) (c : Channel) : s.SameBesideEnd (s.setChan c) :=
  ⟨rfl, rfl, rfl, rfl, rfl, rfl⟩

theorem sameBesideEnd_pushFrame (s : State) (c : Channel) (v : List Byte) :
    s.SameBesideEnd ((s.setChan c).pushFrame v) :=
  sameBesideEnd_setChan s c

theorem sameBesideEnd_pushTrack (s : State) (c : Channel) (v : List Byte) :
    s.SameBesideEnd ((s.setChan c).pushTrack v) :=
  sameBesideEnd_setChan s c

theorem sameBesideEnd_appendChecksum (s : State) (c : Channel) : s.SameBesideEnd (s.appendChecksum.setChan c) :=
  sameBesideEnd_setChan s c

/-- `finish` writes `OUT` and `phase` and nothing else (R132). -/
theorem keepsOutOrEnds_finish (h : s.SameBesideEnd u) (o : ExOutcome) : s.KeepsOutOrEnds (u.finish o) :=
  .inr ⟨rfl, h⟩

/-- Of the host operations only a READ or WRIT without a drive writes `OUT` (R102, R103). -/
theorem HostEffect.keepsOutOrEnds {i : Instr} (he : HostEffect s i t) : s.KeepsOutOrEnds t := by
  cases he with
  | noDrive => exact keepsOutOrEnds_finish ⟨rfl, rfl, rfl, rfl, rfl, rfl⟩ _
  | result => exact .inl rfl
  | select => exact .inl rfl
  | head => exact .inl rfl
  | stat => exact .inl rfl
  | read => exact .inl rfl
  | writ => exact .inl rfl

theorem step_idle_keepsOutOrEnds (hp : s.phase = .idle) (h : step s = .next t) : s.KeepsOutOrEnds t := by
  rcases step_idle_next hp h with ⟨-, rfl⟩ | ⟨msg, rest, i, -, -, he⟩
  · exact .inl rfl
  · exact he.keepsOutOrEnds

theorem transmitCommand_keepsOutOrEnds (frame : List Byte) (s : State) :
    s.KeepsOutOrEnds (transmitCommand frame s) := by
  rcases transmitCommand_cases frame s with ⟨-, heq⟩ | ⟨-, heq⟩ <;> rw [heq]
  · exact .inl rfl
  · exact keepsOutOrEnds_finish (sameBesideEnd_setChan s _) _

theorem sendPayload_keepsOutOrEnds (s : State) : s.KeepsOutOrEnds (sendPayload s) := by
  rcases sendPayload_cases s with ⟨-, heq⟩ | ⟨-, heq⟩ <;> rw [heq]
  · exact .inl rfl
  · exact keepsOutOrEnds_finish (sameBesideEnd_appendChecksum s _) _

theorem step_frameWait_keepsOutOrEnds (hw : s.phase = .awaitFrame ∨ s.phase = .awaitWsta) (h : step s = .next t) :
    s.KeepsOutOrEnds t := by
  obtain ⟨a, c, -, ⟨-, rfl⟩ | ⟨-, rfl⟩ | ⟨v, -, -, -, hcase⟩⟩ := step_frameWait_next hw h
  · exact keepsOutOrEnds_finish (sameBesideEnd_setChan s c) _
  · exact keepsOutOrEnds_finish (sameBesideEnd_setChan s c) _
  have hpush : s.SameBesideEnd ((s.setChan c).pushFrame v) := sameBesideEnd_pushFrame s c v
  rcases hcase with ⟨-, rfl⟩ | ⟨-, -, rfl⟩ | ⟨-, tag, rc, rd, -, hjudged⟩
  · exact .inl rfl
  · exact .inl rfl
  · rcases hjudged with ⟨-, -, rfl⟩ | ⟨-, -, -, -, rfl⟩ | ⟨-, -, o, -, rfl⟩ | ⟨-, rfl⟩
    · exact keepsOutOrEnds_finish hpush _
    · exact .inl rfl
    · exact keepsOutOrEnds_finish hpush o
    · exact keepsOutOrEnds_finish hpush _

theorem step_payload_keepsOutOrEnds (hp : s.phase = .awaitPayload) (h : step s = .next t) : s.KeepsOutOrEnds t := by
  obtain ⟨a, c, -, ⟨-, rfl⟩ | ⟨-, rfl⟩ | ⟨v, -, -, -, ⟨-, rfl⟩ | ⟨-, ⟨p, -, rfl⟩ | rfl⟩⟩⟩ := step_payload_next hp h
  · exact keepsOutOrEnds_finish (sameBesideEnd_setChan s c) _
  · exact keepsOutOrEnds_finish (sameBesideEnd_setChan s c) _
  · exact .inl rfl
  · exact keepsOutOrEnds_finish (sameBesideEnd_pushTrack s c v) _
  · exact keepsOutOrEnds_finish (sameBesideEnd_pushTrack s c v) _

/-- Every step keeps `OUT` or ends an exchange, phase by phase. -/
theorem step_keepsOutOrEnds (h : step s = .next t) : s.KeepsOutOrEnds t := by
  cases hp : s.phase with
  | idle => exact step_idle_keepsOutOrEnds hp h
  | sendCmd =>
    obtain rfl : transmitCommand s.cmd.toList s = t := Host.Outcome.next.inj ((step_sendCmd hp).symm.trans h)
    exact transmitCommand_keepsOutOrEnds _ s
  | awaitFrame => exact step_frameWait_keepsOutOrEnds (.inl hp) h
  | awaitPayload => exact step_payload_keepsOutOrEnds hp h
  | readyToSend =>
    obtain rfl : sendPayload s = t := Host.Outcome.next.inj ((step_ready hp).symm.trans h)
    exact sendPayload_keepsOutOrEnds s
  | awaitWsta => exact step_frameWait_keepsOutOrEnds (.inr hp) h
  | done =>
    obtain rfl : s.returnOutcome = t := Host.Outcome.next.inj ((step_done hp).symm.trans h)
    exact .inl rfl

/-- Settles O44: a step that does not keep `OUT` ends an exchange. -/
theorem outChangesOnlyAtTheEnd : Obligations.OutChangesOnlyAtTheEnd := by
  unfold Obligations.OutChangesOnlyAtTheEnd
  intro s t h hne
  exact (step_keepsOutOrEnds h).resolve_left hne

/-! ## The outcomes (R126) -/

/-- The successes are the outcomes numbered below `0x10` (D23). -/
theorem isSuccess_iff_code_lt (o : ExOutcome) : o.isSuccess = true ↔ o.code.toNat < 0x10 := by
  cases o with
  | statOk | readOk | writOk => exact iff_of_true rfl (by simp [ExOutcome.code])
  | invalidDrive | ioError | timeout | tagMismatch | remoteRefusal | readChecksumInvalid | partialData | noOutcome =>
    exact iff_of_false nofun (by simp [ExOutcome.code])

/-- Settles O43: the numbers are those of the table, and the class follows from them. -/
theorem outcomeCodes : Obligations.OutcomeCodes := by
  unfold Obligations.OutcomeCodes
  exact ⟨fun _ => rfl, fun _ _ => rfl, rfl, rfl, rfl, rfl, fun _ _ => rfl, fun _ _ => rfl, fun _ => rfl, fun _ => rfl,
    rfl, isSuccess_iff_code_lt⟩

end Sys2Proof.Machine
end

section
/-!
PROOFS of the statements on reset and hazards (70_reset_and_hazards.md R150, R151, R159): what reset leaves, a wait
for a frame that goes on, and that no step reads a dead register. For the last: what is always live is one relation, the
frame in `FB` and the payload in `TB` are one each; then one lemma for each phase.
-/
namespace Sys2Proof.Machine

/-! ## Reset (R150) -/

/-- Settles O48: the four registers that the spec gives a reset value, read off. -/
theorem resetRegisters : Obligations.ResetRegisters := by
  unfold Obligations.ResetRegisters
  exact ⟨rfl, rfl, rfl, rfl⟩

/-- Settles O49: the counts are zero, there is no outcome, and `IDLE` promises nothing. -/
theorem resetMeetsInvariant : Obligations.ResetMeetsInvariant := by
  unfold Obligations.ResetMeetsInvariant
  exact ⟨Nat.zero_le _, Nat.zero_le _, rfl, rfl⟩

variable {s t : State}

/-! ## A frame wait that goes on (R159) -/

/-- Ten invalid bytes that come at once are collected and dropped: the wait is where it was (R110). -/
theorem step_frameWait_invalid_group (hw : s.phase = .awaitFrame ∨ s.phase = .awaitWsta) (hfn : s.fn = 0)
    {f : List Byte} (hlen : f.length = 10) (hf : frameValid f = false) {rest : List ReadAnswer}
    (hin : s.chan.inbound = .bytes f :: rest) :
    ∃ u, step s = .next u ∧ u.phase = s.phase ∧ u.fn = 0 ∧ u.out = s.out ∧ u.chan.inbound = rest ∧
      u.chan.log.length = s.chan.log.length + 1 := by
  have hread := s.chan.read_fixed (10 - s.fn) .frame (by omega) hin
  have hd : fcDecode (memRead s.fb 0 s.fn ++ f) = .checksumInvalid := by
    rw [hfn, memRead_zero, List.nil_append, fcDecode_of_invalid hf]
  have hne : f ≠ [] := List.ne_nil_of_length_pos (by omega)
  exact ⟨_, step_frameWait_invalid hw hread hne (by omega) hd, rfl, rfl, rfl, rfl, List.length_append⟩

/-- Settles O53, by induction on the number of invalid groups. -/
theorem frameWaitCanHang : Obligations.FrameWaitCanHang := by
  unfold Obligations.FrameWaitCanHang
  intro n s f rest hw hfn hlen hf hin
  induction n generalizing s with
  | zero => exact ⟨s, rfl, rfl, hfn, rfl, hin, rfl⟩
  | succ n ih =>
    obtain ⟨u, hstep, hphase, hfn', hout, hin', hlog⟩ := step_frameWait_invalid_group hw hfn hlen hf hin
    obtain ⟨t, hrun, htphase, htfn, htout, htin, htlog⟩ := ih u (hphase ▸ hw) hfn' hin'
    exact ⟨t, (run_succ_of_step n hstep).trans hrun, htphase.trans hphase, htfn, htout.trans hout, htin, by omega⟩

/-! ## What is live (R151) -/

/-- The two states agree on what is live in every phase: the Drive State, `phase`, `OUT`, the Host's side and the
Channel. -/
structure SameCommon (s t : State) : Prop where
  head : s.head = t.head
  sel : s.sel = t.sel
  phase : s.phase = t.phase
  out : s.out = t.out
  pending : s.pending = t.pending
  ret : s.ret = t.ret
  chan : s.chan = t.chan

/-- The two states agree on the part of a frame that `FB` holds. -/
def SameFrame (s t : State) : Prop := s.fn = t.fn ∧ memRead s.fb 0 s.fn = memRead t.fb 0 t.fn

/-- The two states agree on `L` and on the payload of that length in `TB`. -/
def SamePayload (s t : State) : Prop := s.len = t.len ∧ memRead s.tb 0 s.L = memRead t.tb 0 t.L

theorem sameLive_iff : SameLive s t ↔ SameCommon s t ∧ samePhaseLive s t :=
  ⟨fun ⟨hhead, hsel, hphase, hout, hpending, hret, hchan, hlive⟩ =>
    ⟨⟨hhead, hsel, hphase, hout, hpending, hret, hchan⟩, hlive⟩,
  fun ⟨h, hlive⟩ => ⟨h.head, h.sel, h.phase, h.out, h.pending, h.ret, h.chan, hlive⟩⟩

theorem sameLive_idle (hp : s.phase = .idle) : SameLive s t ↔ SameCommon s t := by
  simp only [sameLive_iff, samePhaseLive, hp, and_true]

theorem sameLive_done (hp : s.phase = .done) : SameLive s t ↔ SameCommon s t := by
  simp only [sameLive_iff, samePhaseLive, hp, and_true]

theorem sameLive_sendCmd (hp : s.phase = .sendCmd) :
    SameLive s t ↔ SameCommon s t ∧ s.kind = t.kind ∧ s.cmd = t.cmd ∧ (s.kind = .read → s.len = t.len) ∧
      (s.kind = .writ → SamePayload s t) := by
  simp only [sameLive_iff, samePhaseLive, hp, SamePayload]

theorem sameLive_payload (hp : s.phase = .awaitPayload) :
    SameLive s t ↔ SameCommon s t ∧ s.len = t.len ∧ s.tn = t.tn ∧ memRead s.tb 0 s.tn = memRead t.tb 0 t.tn := by
  simp only [sameLive_iff, samePhaseLive, hp]

theorem sameLive_ready (hp : s.phase = .readyToSend) : SameLive s t ↔ SameCommon s t ∧ SamePayload s t := by
  simp only [sameLive_iff, samePhaseLive, hp, SamePayload]

/-- Both frame waits: beside the frame, `KIND` and a WRIT's payload are live in the first one only. -/
theorem sameLive_frameWait (hw : s.phase = .awaitFrame ∨ s.phase = .awaitWsta) :
    SameLive s t ↔ SameCommon s t ∧ SameFrame s t ∧
      (s.phase = .awaitFrame → s.kind = t.kind ∧ (s.kind = .writ → SamePayload s t)) := by
  rcases hw with hp | hp
  · simp only [sameLive_iff, samePhaseLive, hp, SameFrame, SamePayload, forall_const]
    tauto
  · simp [sameLive_iff, samePhaseLive, hp, SameFrame]

/-! ## Named updates of states that agree -/

namespace SameCommon

variable (h : SameCommon s t)
include h

theorem setChan (c : Channel) : SameCommon (s.setChan c) (t.setChan c) :=
  ⟨h.head, h.sel, h.phase, h.out, h.pending, h.ret, rfl⟩

theorem setPhase (p : Phase) : SameCommon (s.setPhase p) (t.setPhase p) :=
  ⟨h.head, h.sel, rfl, h.out, h.pending, h.ret, h.chan⟩

theorem respond (r : HostResult) : SameCommon (s.respond r) (t.respond r) :=
  ⟨h.head, h.sel, h.phase, h.out, h.pending, rfl, h.chan⟩

theorem setSel (d : Option (Fin 4)) : SameCommon (s.setSel d) (t.setSel d) :=
  ⟨h.head, rfl, h.phase, h.out, h.pending, h.ret, h.chan⟩

theorem setHeadBit (d : Fin 4) (v : Bool) : SameCommon (s.setHeadBit d v) (t.setHeadBit d v) :=
  ⟨congrArg (·.set d.val v d.isLt) h.head, h.sel, h.phase, h.out, h.pending, h.ret, h.chan⟩

theorem dropPending : SameCommon s.dropPending t.dropPending :=
  ⟨h.head, h.sel, h.phase, h.out, congrArg List.tail h.pending, h.ret, h.chan⟩

/-! What these seven write is not live in every phase. -/

theorem latchLen (g : Geometry) : SameCommon (s.latchLen g) (t.latchLen g) :=
  ⟨h.head, h.sel, h.phase, h.out, h.pending, h.ret, h.chan⟩

theorem latchPayload (data : List Byte) : SameCommon (s.latchPayload data) (t.latchPayload data) :=
  ⟨h.head, h.sel, h.phase, h.out, h.pending, h.ret, h.chan⟩

theorem clearCounts : SameCommon s.clearCounts t.clearCounts :=
  ⟨h.head, h.sel, h.phase, h.out, h.pending, h.ret, h.chan⟩

theorem clearFrame : SameCommon s.clearFrame t.clearFrame :=
  ⟨h.head, h.sel, h.phase, h.out, h.pending, h.ret, h.chan⟩

theorem pushFrame (v : List Byte) : SameCommon (s.pushFrame v) (t.pushFrame v) :=
  ⟨h.head, h.sel, h.phase, h.out, h.pending, h.ret, h.chan⟩

theorem pushTrack (v : List Byte) : SameCommon (s.pushTrack v) (t.pushTrack v) :=
  ⟨h.head, h.sel, h.phase, h.out, h.pending, h.ret, h.chan⟩

theorem appendChecksum : SameCommon s.appendChecksum t.appendChecksum :=
  ⟨h.head, h.sel, h.phase, h.out, h.pending, h.ret, h.chan⟩

/-! The three updates that end in a phase with a known live set. -/

/-- After the end of an exchange nothing but `OUT` is live of it (R132). -/
theorem sameLive_finish (o : ExOutcome) : SameLive (s.finish o) (t.finish o) :=
  (sameLive_done rfl).mpr ⟨h.head, h.sel, rfl, rfl, h.pending, h.ret, h.chan⟩

theorem sameLive_returnOutcome : SameLive s.returnOutcome t.returnOutcome :=
  (sameLive_idle rfl).mpr
    ⟨h.head, h.sel, rfl, h.out, h.pending, congrArg (fun o => some (HostResult.outcome o)) h.out, h.chan⟩

/-- An accept step writes all of `CMD`; what else the exchange reads must agree already. -/
theorem sameLive_beginExchange {k : Kind} {frame : List Byte} (hlen : frame.length = 10)
    (hread : k = .read → s.len = t.len) (hwrit : k = .writ → SamePayload s t) :
    SameLive (s.beginExchange k frame) (t.beginExchange k frame) :=
  (sameLive_sendCmd rfl).mpr ⟨⟨h.head, h.sel, rfl, h.out, h.pending, h.ret, h.chan⟩, rfl,
    memWrite_whole_eq s.cmd t.cmd hlen, hread, hwrit⟩

end SameCommon

/-- A payload of the track length replaces whatever the two states had in `TB[0..L-1]`. -/
theorem samePayload_latch (s t : State) {g : Geometry} {data : List Byte} (hlen : data.length = g.trackLen) :
    SamePayload ((s.latchLen g).latchPayload data) ((t.latchLen g).latchPayload data) :=
  ⟨rfl, (memRead_latchPayload s hlen).trans (memRead_latchPayload t hlen).symm⟩

/-- The partial frame after more bytes have come depends on the one before and on these bytes. -/
theorem SameFrame.pushFrame (h : SameFrame s t) (c : Channel) {v : List Byte} (hfit : s.fn + v.length ≤ 10) :
    SameFrame ((s.setChan c).pushFrame v) ((t.setChan c).pushFrame v) := by
  obtain ⟨hfn, hfb⟩ := h
  have hs := memRead_memWrite_prefix s.fb hfit
  have ht := memRead_memWrite_prefix t.fb (hfn ▸ hfit)
  exact ⟨congrArg (· + v.length) hfn, by
    simp only [State.pushFrame_fb, State.pushFrame_fn, State.setChan_fb, State.setChan_fn, hs, ht, hfb]⟩

theorem sameFrame_of_fn_zero (hs : s.fn = 0) (ht : t.fn = 0) : SameFrame s t :=
  ⟨hs.trans ht.symm, by rw [hs, ht, memRead_zero, memRead_zero]⟩

/-! ## The step in `IDLE` -/

section Idle

variable (hp : s.phase = .idle) (h : SameCommon s t)
include hp h

theorem sameResult_whenIdle {r r' : StepResult} (hr : sameResult r r') :
    sameResult (whenIdle s r) (whenIdle t r') := by
  rwa [whenIdle_idle hp, whenIdle_idle (h.phase ▸ hp)]

theorem sameLive_respond (r : HostResult) : SameLive (s.respond r) (t.respond r) :=
  (sameLive_idle (s := s.respond r) hp).mpr (h.respond r)

theorem execExRead_sameResult (track : Nat) (g : Geometry) :
    sameResult (exec (.exRead track g) s) (exec (.exRead track g) t) := by
  have hp' : t.phase = .idle := h.phase ▸ hp
  by_cases htrack : track < 4096
  · cases hs : s.sel with
    | none =>
      rw [exec_exRead_noDrive hp hs g htrack, exec_exRead_noDrive hp' (h.sel ▸ hs) g htrack]
      exact h.sameLive_finish _
    | some d =>
      rw [exec_exRead_drive hp hs g htrack, exec_exRead_drive hp' (h.sel ▸ hs) g htrack]
      exact (h.latchLen g).sameLive_beginExchange (fcEncode_length _ _ _) (fun _ => rfl) nofun
  · rw [exec_exRead_track_refused hp g (by omega), exec_exRead_track_refused hp' g (by omega)]
    rfl

theorem execExWrit_sameResult (track : Nat) (g : Geometry) (data : List Byte) :
    sameResult (exec (.exWrit track g data) s) (exec (.exWrit track g data) t) := by
  have hp' : t.phase = .idle := h.phase ▸ hp
  by_cases htrack : track < 4096
  · by_cases hlen : data.length = g.trackLen
    · cases hs : s.sel with
      | none =>
        rw [exec_exWrit_noDrive hp hs htrack hlen, exec_exWrit_noDrive hp' (h.sel ▸ hs) htrack hlen]
        exact h.sameLive_finish _
      | some d =>
        rw [exec_exWrit_drive hp hs htrack hlen, exec_exWrit_drive hp' (h.sel ▸ hs) htrack hlen]
        exact ((h.latchLen g).latchPayload data).sameLive_beginExchange (fcEncode_length _ _ _) nofun
          fun _ => samePayload_latch s t hlen
    · rw [exec_exWrit_data_refused hp htrack hlen, exec_exWrit_data_refused hp' htrack hlen]
      rfl
  · rw [exec_exWrit_track_refused hp g data (by omega), exec_exWrit_track_refused hp' g data (by omega)]
    rfl

/-- Every host operation reads, beside its arguments, at most the Drive State. -/
theorem exec_host_sameResult {i : Instr} (hi : i.port = .host) : sameResult (exec i s) (exec i t) := by
  cases i with
  | reqStat => cases hi
  | reqRead => cases hi
  | reqWrit => cases hi
  | rspStat => cases hi
  | rspWrit => cases hi
  | rspWsta => cases hi
  | exStat =>
    refine sameResult_whenIdle hp h ?_
    rw [← h.sel, ← h.head]
    exact h.sameLive_beginExchange (fcEncode_length _ _ _) nofun nofun
  | exRead track g => exact execExRead_sameResult hp h track g
  | exWrit track g data => exact execExWrit_sameResult hp h track g data
  | dsSelect idx =>
    refine sameResult_whenIdle hp h ?_
    cases selectArg idx with
    | none => rfl
    | some d => exact sameLive_respond (s := s.setSel d) hp (h.setSel d) _
  | dsHead idx v =>
    refine sameResult_whenIdle hp h ?_
    cases driveArg idx with
    | none => rfl
    | some d => exact sameLive_respond (s := s.setHeadBit d v) hp (h.setHeadBit d v) _
  | dsHeadmap =>
    refine sameResult_whenIdle hp h ?_
    rw [← h.head]
    exact sameLive_respond hp h _
  | fcEncode tag p1 p2 =>
    refine sameResult_whenIdle hp h ?_
    cases tagArg tag with
    | none => rfl
    | some b => exact sameLive_respond hp h _
  | fcDecode f =>
    refine sameResult_whenIdle hp h ?_
    split
    · exact sameLive_respond hp h _
    · rfl
  | tcChecksum => exact sameResult_whenIdle hp h (sameLive_respond hp h _)
  | tcAppend => exact sameResult_whenIdle hp h (sameLive_respond hp h _)
  | tcValidate => exact sameResult_whenIdle hp h (sameLive_respond hp h _)

theorem step_idle_sameResult : sameResult (step s) (step t) := by
  rw [step_idle hp, step_idle (h.phase ▸ hp), ← h.pending]
  cases s.pending with
  | nil => exact (sameLive_idle hp).mpr h
  | cons msg rest =>
    simp only
    cases hd : decode .host msg with
    | error e => rfl
    | ok i => exact exec_host_sameResult (s := s.dropPending) hp h.dropPending (decode_host_port hd)

end Idle

/-! ## The step in `SEND_CMD` -/

/-- After the command the counts are zero, so of the buffers only a WRIT's payload is live. -/
theorem sameLive_firstWait (h : SameCommon s t) (hkind : s.kind = t.kind) (hread : s.kind = .read → s.len = t.len)
    (hwrit : s.kind = .writ → SamePayload s t) :
    SameLive (s.clearCounts.setPhase (firstWait s.kind)) (t.clearCounts.setPhase (firstWait t.kind)) := by
  rw [← hkind]
  have hcommon := h.clearCounts.setPhase (firstWait s.kind)
  by_cases hk : s.kind = .read
  · exact (sameLive_payload (by rw [hk]; rfl)).mpr ⟨hcommon, hread hk, rfl, rfl⟩
  · have hwait : firstWait s.kind = .awaitFrame := by rw [firstWait_eq, if_neg hk]
    exact (sameLive_frameWait (.inl hwait)).mpr ⟨hcommon, sameFrame_of_fn_zero rfl rfl, fun _ => ⟨hkind, hwrit⟩⟩

theorem step_sendCmd_sameResult (hp : s.phase = .sendCmd) (h : SameLive s t) : sameResult (step s) (step t) := by
  obtain ⟨hcommon, hkind, hcmd, hread, hwrit⟩ := (sameLive_sendCmd hp).mp h
  rw [step_sendCmd hp, step_sendCmd (hcommon.phase ▸ hp), ← hcmd]
  have ht := transmitCommand_cases s.cmd.toList t
  rw [← hcommon.chan] at ht
  have hchan := hcommon.setChan (s.chan.write s.cmd.toList).2
  rcases transmitCommand_cases s.cmd.toList s with ⟨hw, heq⟩ | ⟨hw, heq⟩
  · rw [heq, (ht.resolve_right fun hne => hne.1 hw).2]
    exact sameLive_firstWait hchan hkind hread hwrit
  · rw [heq, (ht.resolve_left fun hok => hw hok.1).2]
    exact hchan.sameLive_finish _

/-! ## The frame waits -/

/-- The arbiter reads, beside the frame, `phase` and in the first wait `KIND` (R106). -/
theorem arbitrate_sameResult (hw : s.phase = .awaitFrame ∨ s.phase = .awaitWsta) (h : SameCommon s t)
    (hfirst : s.phase = .awaitFrame → s.kind = t.kind ∧ (s.kind = .writ → SamePayload s t)) (tag : Tag)
    (rcode rdata : Word) : sameResult (arbitrate tag rcode rdata s) (arbitrate tag rcode rdata t) := by
  rcases hw with hp | hp
  · obtain ⟨hkind, hwrit⟩ := hfirst hp
    have hp' : t.phase = .awaitFrame := h.phase ▸ hp
    cases hk : s.kind with
    | stat =>
      rw [arbitrate_stat _ _ _ hp hk, arbitrate_stat _ _ _ hp' (hkind ▸ hk)]
      exact h.sameLive_finish _
    | read =>
      simp only [arbitrate, hp, hp', hk, ← hkind]
      rfl
    | writ =>
      rw [arbitrate_ack _ _ _ hp hk, arbitrate_ack _ _ _ hp' (hkind ▸ hk)]
      cases ho : ackVerdict tag rcode with
      | some o =>
        rw [acknowledge_of_some ho, acknowledge_of_some ho]
        exact h.sameLive_finish o
      | none =>
        rw [acknowledge_of_none ho, acknowledge_of_none ho]
        exact (sameLive_ready rfl).mpr ⟨h.setPhase _, hwrit hk⟩
  · rw [arbitrate_final _ _ _ hp, arbitrate_final _ _ _ (h.phase ▸ hp)]
    exact h.sameLive_finish _

theorem step_frameWait_sameResult (hw : s.phase = .awaitFrame ∨ s.phase = .awaitWsta) (h : SameLive s t) :
    sameResult (step s) (step t) := by
  obtain ⟨hcommon, hframe, hfirst⟩ := (sameLive_frameWait hw).mp h
  have hw' : t.phase = .awaitFrame ∨ t.phase = .awaitWsta := hcommon.phase ▸ hw
  obtain ⟨hfn, hfb⟩ := hframe
  rcases hread : s.chan.read (10 - s.fn) .frame with ⟨a, c⟩
  have hread' : t.chan.read (10 - t.fn) .frame = (a, c) := by rw [← hcommon.chan, ← hfn, hread]
  have hchan := hcommon.setChan c
  cases a with
  | ioError =>
    rw [step_frameWait_ioError hw hread, step_frameWait_ioError hw' hread']
    exact hchan.sameLive_finish _
  | bytes v =>
    by_cases hv : v = []
    · subst hv
      rw [step_frameWait_timeout hw hread, step_frameWait_timeout hw' hread']
      exact hchan.sameLive_finish _
    have hpush := hchan.pushFrame v
    by_cases hfull : s.fn + v.length = 10
    · have hfull' : t.fn + v.length = 10 := hfn ▸ hfull
      cases hd : fcDecode (memRead s.fb 0 s.fn ++ v) with
      | checksumInvalid =>
        rw [step_frameWait_invalid hw hread hv hfull hd, step_frameWait_invalid hw' hread' hv hfull' (hfb ▸ hd)]
        exact (sameLive_frameWait (s := ((s.setChan c).pushFrame v).clearFrame) hw).mpr
          ⟨hpush.clearFrame, sameFrame_of_fn_zero rfl rfl, hfirst⟩
      | ok tag rcode rdata =>
        rw [step_frameWait_valid hw hread hv hfull hd, step_frameWait_valid hw' hread' hv hfull' (hfb ▸ hd)]
        exact arbitrate_sameResult (s := (s.setChan c).pushFrame v) hw hpush hfirst tag rcode rdata
    · have hle : v.length ≤ 10 - s.fn := s.chan.read_le _ _ (congrArg Prod.fst hread)
      have hpos : 0 < v.length := List.length_pos_of_ne_nil hv
      rw [step_frameWait_partial hw hread hv hfull, step_frameWait_partial hw' hread' hv (hfn ▸ hfull)]
      exact (sameLive_frameWait (s := (s.setChan c).pushFrame v) hw).mpr
        ⟨hpush, SameFrame.pushFrame ⟨hfn, hfb⟩ c (by omega), hfirst⟩

/-! ## The payload wait and the payload write -/

theorem step_payload_sameResult (hp : s.phase = .awaitPayload) (h : SameLive s t) : sameResult (step s) (step t) := by
  obtain ⟨hcommon, hlen, htn, htb⟩ := (sameLive_payload hp).mp h
  have hL : s.L = t.L := congrArg Geometry.trackLen hlen
  rw [step_payload hp, step_payload (hcommon.phase ▸ hp)]
  rcases hread : s.chan.read (s.L + 2 - s.tn) .chunk with ⟨a, c⟩
  have hread' : t.chan.read (t.L + 2 - t.tn) .chunk = (a, c) := by rw [← hcommon.chan, ← hL, ← htn, hread]
  have hchan := hcommon.setChan c
  cases a with
  | ioError =>
    rw [payloadStep_of_ioError hread, payloadStep_of_ioError hread']
    exact hchan.sameLive_finish _
  | bytes v =>
    by_cases hv : v = []
    · subst hv
      rw [payloadStep_of_nil hread, payloadStep_of_nil hread', ← htn]
      exact hchan.sameLive_finish _
    have hle : v.length ≤ s.L + 2 - s.tn := s.chan.read_le _ _ (congrArg Prod.fst hread)
    have hpos : 0 < v.length := List.length_pos_of_ne_nil hv
    have hpush := hchan.pushTrack v
    by_cases hfull : s.tn + v.length = s.L + 2
    · have hbytes : (memRead s.tb 0 s.tn ++ v).length = s.L + 2 := by
        have hfits := L_add_two_le s
        rw [List.length_append, memRead_length]
        omega
      obtain ⟨o, ho⟩ := payloadVerdict_exists hbytes
      rw [payloadStep_of_verdict hread hv hfull ho,
        payloadStep_of_verdict hread' hv (hL ▸ htn ▸ hfull) (hL ▸ htb ▸ ho)]
      exact hpush.sameLive_finish o
    · rw [payloadStep_of_partial hread hv hfull, payloadStep_of_partial hread' hv (hL ▸ htn ▸ hfull)]
      refine (sameLive_payload (s := (s.setChan c).pushTrack v) hp).mpr ⟨hpush, hlen, congrArg (· + v.length) htn, ?_⟩
      calc memRead ((s.setChan c).pushTrack v).tb 0 (s.tn + v.length)
          = memRead s.tb 0 s.tn ++ v := memRead_pushTrack c (by omega)
        _ = memRead t.tb 0 t.tn ++ v := by rw [htb]
        _ = memRead ((t.setChan c).pushTrack v).tb 0 (t.tn + v.length) := (memRead_pushTrack c (by omega)).symm

theorem step_ready_sameResult (hp : s.phase = .readyToSend) (h : SameLive s t) : sameResult (step s) (step t) := by
  obtain ⟨hcommon, hlen, htb⟩ := (sameLive_ready hp).mp h
  have hL : s.L = t.L := congrArg Geometry.trackLen hlen
  rw [step_ready hp, step_ready (hcommon.phase ▸ hp)]
  have hs := sendPayload_cases s
  have ht := sendPayload_cases t
  rw [memRead_appendChecksum] at hs ht
  rw [← hcommon.chan, ← htb, ← hL] at ht
  have hchan := hcommon.appendChecksum.setChan (s.chan.write (tcAppend (memRead s.tb 0 s.L))).2
  rcases hs with ⟨hw, heq⟩ | ⟨hw, heq⟩
  · rw [heq, (ht.resolve_right fun hne => hne.1 hw).2]
    exact (sameLive_frameWait (.inr rfl)).mpr
      ⟨hchan.clearFrame.setPhase _, sameFrame_of_fn_zero rfl rfl, nofun⟩
  · rw [heq, (ht.resolve_left fun hok => hw hok.1).2]
    exact hchan.sameLive_finish _

theorem step_done_sameResult (hp : s.phase = .done) (h : SameCommon s t) : sameResult (step s) (step t) := by
  rw [step_done hp, step_done (h.phase ▸ hp)]
  exact h.sameLive_returnOutcome

/-- Settles O54, phase by phase; the invariant is not needed for it. -/
theorem deadRegistersUnobservable : Obligations.DeadRegistersUnobservable := by
  unfold Obligations.DeadRegistersUnobservable
  intro s t h
  cases hp : s.phase with
  | idle => exact step_idle_sameResult hp ((sameLive_idle hp).mp h)
  | sendCmd => exact step_sendCmd_sameResult hp h
  | awaitFrame => exact step_frameWait_sameResult (.inl hp) h
  | awaitPayload => exact step_payload_sameResult hp h
  | readyToSend => exact step_ready_sameResult hp h
  | awaitWsta => exact step_frameWait_sameResult (.inr hp) h
  | done => exact step_done_sameResult hp ((sameLive_done hp).mp h)

end Sys2Proof.Machine
end
